-- ==== Sys2Proof/Word.lean ====
section
/-!
DEFINITION. Word.lean: the widths of the spec's values (00_scope.md R9, R10, R11; 10_state.md R36).

No value of the core is signed (R11), so every value is a plain bit vector, bit 0 least significant.
Element j of a sequence is bit j of the vector that holds it (R12).
-/

namespace Sys2Proof

/-- The 128-bit input of PAYLOAD (R24). -/
abbrev Payload := BitVec 128

/-- The sixteen 4-bit error positions of POSVEC (R25). -/
abbrev PosVec := BitVec 64

/-- An 8-bit block; position k (1-indexed) is bit k-1 (R36). -/
abbrev Block := BitVec 8

/-- The Hamming portion of a block, positions 1 to 7 (R36, R110). -/
abbrev Word7 := BitVec 7

/-- A syndrome, 0 to 7 (R9, R112). -/
abbrev Syndrome := BitVec 3

/-- A 4-bit error position or block index field, 0 to 15 (R72). -/
abbrev Nibble := BitVec 4

/-- A command word (R70). -/
abbrev CmdWord := BitVec 16

/-- The number of blocks of a payload (BLOCK_COUNT of R9). -/
abbrev blockCount : Nat := 16

/-- A block index 0 to 15 (R34). -/
abbrev BlockIndex := Fin blockCount

end Sys2Proof
end

