-- ==== Sys2Proof/Syntax.lean ====
section
/-!
DEFINITION. Syntax.lean: the ten commands (30_encoding.md R75), the registers the host names
(20_memory.md R53), the host's actions (R54), and the assembler's lines (30_encoding.md R79, R80).
-/

namespace Sys2Proof

/-- One constructor per row of spec/opcode_table.json. An operand has exactly the width its row gives it
(30_encoding.md R72, R73, R75), so every term is a legal command: there is no ill-formed one. -/
inductive Instr where
  /-- NOP: completion only (47_control.md R180). -/
  | nop
  /-- PARITY of the word `w` (42_codec.md R114). -/
  | parity (w : Word7)
  /-- SYNDROME of the word `w` (42_codec.md R115). -/
  | syndrome (w : Word7)
  /-- LOCATE the syndrome `e` (42_codec.md R116). -/
  | locate (e : Syndrome)
  /-- CORRECT the word `w` (44_corrector.md R142). -/
  | correct (w : Word7)
  /-- INJECT an error at position `p` of block `b` (43_injector.md R132). -/
  | inject (b : Block) (p : Nibble)
  /-- PROCESS block `b` with an error at position `p` (45_block_processor.md R152). -/
  | process (b : Block) (p : Nibble)
  /-- SPLIT off block `idx` of PAYLOAD (41_splitter.md R101). -/
  | split (idx : Nibble)
  /-- RUN: one whole run over PAYLOAD and POSVEC (46_aggregator_run.md R165). -/
  | run
  /-- CLRERR: clear FIRST_ERR (47_control.md R181). -/
  | clrerr
  deriving DecidableEq, Repr

/-- The registers the host reaches by name (20_memory.md R53). -/
inductive Reg where
  | payload
  | posvec
  | cmd
  | result
  | status
  | resOrig (i : BlockIndex)
  | resPos (i : BlockIndex)
  | resRecv (i : BlockIndex)
  | resCorr (i : BlockIndex)
  | aggOrig
  | aggCorr
  | aggStat
  deriving DecidableEq, Repr

/-- The full width of a register, the only width of an access (20_memory.md R53). -/
def Reg.width : Reg → Nat
  | .payload => 128
  | .posvec => 64
  | .cmd => 16
  | .result => 16
  | .status => 32
  | .resOrig _ => 8
  | .resPos _ => 4
  | .resRecv _ => 8
  | .resCorr _ => 8
  | .aggOrig => 128
  | .aggCorr => 128
  | .aggStat => 16

/-- What the host may try to do: a write or a read of a named register at some width, or a reset.
20_memory.md R54 lists which of the accesses are host actions; Machine/HostPort.lean refuses the others. -/
inductive HostAction where
  /-- host_write of the `width`-bit value `v` to `r`. -/
  | write (r : Reg) (width : Nat) (v : BitVec width)
  /-- host_read of `r` at `width` bits. -/
  | read (r : Reg) (width : Nat)
  /-- The reset input is asserted (70_reset_and_hazards.md R231). -/
  | reset
  deriving DecidableEq, Repr

/-- An assembler operand: a quoted bit string in source order, character j being bit j, or a hexadecimal
register value (30_encoding.md R79). -/
inductive AsmOperand where
  | quoted (cs : List Char)
  | hex (n : Nat)
  deriving DecidableEq, Repr

/-- A line of a program: a command of 30_encoding.md R79 or a host-action line of R80. -/
inductive AsmLine where
  | nop
  | parity (w : AsmOperand)
  | syndrome (w : AsmOperand)
  | locate (e : Nat)
  | correct (w : AsmOperand)
  | inject (b : AsmOperand) (p : Nat)
  | process (b : AsmOperand) (p : Nat)
  | split (idx : Nat)
  | run
  | clrerr
  | writePayload (v : AsmOperand)
  | writePosvec (ps : List Nat)
  | read (r : Reg)
  deriving DecidableEq, Repr

end Sys2Proof
end

