-- ==== Sys2Proof/Config.lean ====
section
/-!
DEFINITION. Config.lean: what the spec leaves open (00_scope.md R10, 92_eei_decisions.md section 2).

BUS_BINDING is outside the spec (20_memory.md R52) and POSITION_SOURCE is the host's (R66): a POSVEC value is an argument
of the host's write, so every statement holds for every one. Neither needs a constant here (log 11).
-/

namespace Sys2Proof

/-- CMD_LATENCY, the clock cycles an implementation takes per command (00_scope.md R10): "no rule of the spec depends on
it" (70_reset_and_hazards.md R242), and no definition of the model does. -/
opaque Config.cmdLatency : Nat

/-- FREE VALUE (log 3): what a host read of a register that holds no value returns (10_state.md R21, 20_memory.md R55).
`era` counts the host writes and resets so far, so two reads with no write between them return the same value (R55)
and nothing relates reads of different eras. -/
opaque Config.freeRead (era : Nat) (r : Reg) : BitVec r.width

end Sys2Proof
end

