-- ==== Sys2Proof/Decode.lean ====
section
/-!
DEFINITION. Decode.lean: the decoder of command words (30_encoding.md R71 to R77), and after it the encoder (R74).
-/

namespace Sys2Proof

/-- Why a word is no command; both raise IllegalCommand (30_encoding.md R77). -/
inductive Reject where
  /-- OPC is 0xA to 0xF. -/
  | reservedOpcode
  /-- A bit the opcode's row requires to be 0 is 1. -/
  | reservedFieldBit
  deriving DecidableEq, Repr

/-- OPC = w[3:0] (R71). -/
def opcField (w : CmdWord) : BitVec 4 := w.extractLsb' 0 4

/-- P = w[7:4] (R72). -/
def pField (w : CmdWord) : Nibble := w.extractLsb' 4 4

/-- D = w[15:8] (R73). -/
def dField (w : CmdWord) : BitVec 8 := w.extractLsb' 8 8

/-- The mask column of R75: a 1 at every bit that is either the opcode or must be zero. -/
def maskOf (opc : Nat) : CmdWord :=
  match opc with
  | 0 => 0xFFFF#16
  | 1 => 0x80FF#16
  | 2 => 0x80FF#16
  | 3 => 0xF8FF#16
  | 4 => 0x80FF#16
  | 5 => 0x000F#16
  | 6 => 0x000F#16
  | 7 => 0xFF0F#16
  | 8 => 0xFFFF#16
  | 9 => 0xFFFF#16
  | _ => 0x000F#16

/-- The match column of R75. -/
def matchOf (opc : Nat) : CmdWord := BitVec.ofNat 16 opc

/-- The decode part of Execute(w) (30_encoding.md R76), total on the 65,536 words. -/
def decode (w : CmdWord) : Except Reject Instr :=
  let opc := (opcField w).toNat
  let p := pField w
  let d := dField w
  if 10 ≤ opc then .error .reservedOpcode
  else if w &&& maskOf opc ≠ matchOf opc then .error .reservedFieldBit
  else
    match opc with
    | 0 => .ok .nop
    | 1 => .ok (.parity (d.extractLsb' 0 7))
    | 2 => .ok (.syndrome (d.extractLsb' 0 7))
    | 3 => .ok (.locate (d.extractLsb' 0 3))
    | 4 => .ok (.correct (d.extractLsb' 0 7))
    | 5 => .ok (.inject d p)
    | 6 => .ok (.process d p)
    | 7 => .ok (.split p)
    | 8 => .ok .run
    | 9 => .ok .clrerr
    | _ => .error .reservedOpcode

/-- The instruction of a table row's word. A command is one 16-bit word (R78); bits from `nbits` up are 0. -/
def decodeTableWord (nbits w : Nat) : Option Instr :=
  if nbits ≤ 16 then (decode (BitVec.ofNat 16 (w % 2 ^ nbits))).toOption else none

/-- The spec's mnemonic (R75). -/
def Instr.mnemonic : Instr → String
  | .nop => "NOP"
  | .parity _ => "PARITY"
  | .syndrome _ => "SYNDROME"
  | .locate _ => "LOCATE"
  | .correct _ => "CORRECT"
  | .inject _ _ => "INJECT"
  | .process _ _ => "PROCESS"
  | .split _ => "SPLIT"
  | .run => "RUN"
  | .clrerr => "CLRERR"

/-- The OPC column of R75. -/
def Instr.opcode : Instr → BitVec 4
  | .nop => 0x0#4
  | .parity _ => 0x1#4
  | .syndrome _ => 0x2#4
  | .locate _ => 0x3#4
  | .correct _ => 0x4#4
  | .inject _ _ => 0x5#4
  | .process _ _ => 0x6#4
  | .split _ => 0x7#4
  | .run => 0x8#4
  | .clrerr => 0x9#4

/-- The P column of R75. -/
def Instr.pOperand : Instr → Nibble
  | .inject _ p => p
  | .process _ p => p
  | .split idx => idx
  | .nop | .parity _ | .syndrome _ | .locate _ | .correct _ | .run | .clrerr => 0#4

/-- The D column of R75; D[7] of a 7-bit word and D[7:3] of a syndrome are 0 (R73). -/
def Instr.dOperand : Instr → BitVec 8
  | .parity w => w.setWidth 8
  | .syndrome w => w.setWidth 8
  | .locate e => e.setWidth 8
  | .correct w => w.setWidth 8
  | .inject b _ => b
  | .process b _ => b
  | .nop | .split _ | .run | .clrerr => 0#8

/-- The command word w = {D, P, OPC} (30_encoding.md R74). -/
def encode (i : Instr) : CmdWord := (i.dOperand ++ i.pOperand) ++ i.opcode

end Sys2Proof
end

