-- ==== Sys2Proof/Machine/State.lean ====
section
/-!
DEFINITION. Machine/State.lean: the state of the core as the record of 10_state.md R39, the model's own three fields
beside it, the reset state (70_reset_and_hazards.md R230), and the model's reasons to stop.
-/

namespace Sys2Proof.Machine

/-- The core's own fault codes (60_exceptions.md R200). They are recorded in STATUS and end in a NEXT state (R202):
they are not the model's `Fault`. -/
inductive FaultCode where
  /-- Code 1, raised by RUN and SPLIT (R210). -/
  | missingInput
  /-- Code 2, reserved for the shell's error, never raised by the core (R214). -/
  | malformedInput
  /-- Code 3, raised by INJECT, PROCESS and RUN (R212). -/
  | invalidErrorPosition
  /-- Code 4, raised by RUN (R211). -/
  | missingPositions
  /-- Code 5, raised by any illegal command word (R213). -/
  | illegalCommand
  deriving DecidableEq, Repr

/-- Why the MODEL has no next state. No command's meaning raises one. -/
inductive Fault where
  /-- Raised by the host port (Machine/HostPort.lean) for a host action while STATUS.BUSY = 1, other than a read of STATUS
  or a reset: "a host action during BUSY has no move in the model" (70_reset_and_hazards.md R240). UNSAFE as R240 says:
  a real host that acts while BUSY = 1 is outside every statement (log 7). -/
  | hostActionWhileBusy
  deriving DecidableEq, Repr

/-- Accesses the model refuses by name. No command's meaning raises one but `notModelled`, and no arm does. -/
inductive Refusal where
  /-- Raised by an arm of exec whose instruction has no meaning yet; safe. No arm of this model raises it. -/
  | notModelled (mnemonic : String)
  /-- Raised by the host port for a host_write to a register that is not PAYLOAD, POSVEC or CMD (20_memory.md R54,
  10_state.md R31); safe, it is no host action of this core (log 8). -/
  | writeOfReadOnly
  /-- Raised by the host port for a host_read of CMD (20_memory.md R54); safe (log 8). -/
  | readOfWriteOnly
  /-- Raised by the host port for an access that is not of the register's full width (20_memory.md R53, R54); safe
  (log 8). -/
  | wrongWidth
  deriving DecidableEq, Repr

/-- What a host_read gave back: the register and its value (20_memory.md R54, R55). -/
structure Reply where
  reg : Reg
  value : BitVec reg.width
  deriving DecidableEq, Repr

/-- The record of 10_state.md R39, field by field, and after it the model's own three fields. `none` is the spec's
"holds no value" (R21), which a register has from reset until its first write. -/
structure State where
  /-- PAYLOAD (R24). -/
  payload : Option Payload
  /-- POSVEC (R25). -/
  posvec : Option PosVec
  /-- RESULT (R33). -/
  result : BitVec 16
  /-- STATUS.LAST_OK (R26). -/
  lastOk : Bool
  /-- STATUS.RUN_VALID (R27). -/
  runValid : Bool
  /-- STATUS.PAYLOAD_V (R28). -/
  payloadV : Bool
  /-- STATUS.POSVEC_V (R28). -/
  posvecV : Bool
  /-- STATUS.BUSY (R30). -/
  busy : Bool
  /-- STATUS.LAST_ERR (R29). -/
  lastErr : BitVec 4
  /-- STATUS.FIRST_ERR (R29). -/
  firstErr : BitVec 4
  /-- STATUS.ERR_BLOCK (R29). -/
  errBlock : BitVec 4
  /-- RES_ORIG[0..15] (R34). -/
  resOrig : Vector (Option Block) 16
  /-- RES_POS[0..15] (R34). -/
  resPos : Vector (Option Nibble) 16
  /-- RES_RECV[0..15] (R34). -/
  resRecv : Vector (Option Block) 16
  /-- RES_CORR[0..15] (R34). -/
  resCorr : Vector (Option Block) 16
  /-- AGG_ORIG (R35). -/
  aggOrig : Option (BitVec 128)
  /-- AGG_CORR (R35). -/
  aggCorr : Option (BitVec 128)
  /-- AGG_STAT (R35). -/
  aggStat : Option (BitVec 16)
  /-- The model's own: the host's actions still to come, in the host's order (20_memory.md R51, R59; log 1). -/
  pending : List HostAction
  /-- The model's own: what the last host_read returned (R55; log 4). -/
  reply : Option Reply
  /-- The model's own: the counter of host writes and resets, to which the free value of an unwritten register is
  applied (log 3). -/
  drawEra : Nat
  deriving DecidableEq, Repr

/-- The reset state (70_reset_and_hazards.md R230): RESULT and every STATUS field 0, every other register without a
value. The model's own fields: no host action yet, no reply, era 0 (log 17). -/
def State.reset : State where
  payload := none
  posvec := none
  result := 0#16
  lastOk := false
  runValid := false
  payloadV := false
  posvecV := false
  busy := false
  lastErr := 0#4
  firstErr := 0#4
  errBlock := 0#4
  resOrig := Vector.replicate 16 none
  resPos := Vector.replicate 16 none
  resRecv := Vector.replicate 16 none
  resCorr := Vector.replicate 16 none
  aggOrig := none
  aggCorr := none
  aggStat := none
  pending := []
  reply := none
  drawEra := 0

end Sys2Proof.Machine
end

