-- ==== Sys2Proof/Machine/Flags.lean ====
section
/-!
DEFINITION. Machine/Flags.lean: the fault codes of 60_exceptions.md R200, the sticky FIRST_ERR (R202), STATUS as the host
reads it (10_state.md R39), and the fields of AGG_STAT (R35).
-/

namespace Sys2Proof.Machine

/-- The code column of 60_exceptions.md R200. -/
def FaultCode.toBits : FaultCode → BitVec 4
  | .missingInput => 1#4
  | .malformedInput => 2#4
  | .invalidErrorPosition => 3#4
  | .missingPositions => 4#4
  | .illegalCommand => 5#4

/-- FIRST_ERR after a fault: the code if it was 0, else unchanged (60_exceptions.md R202). -/
def firstErrAfter (first code : BitVec 4) : BitVec 4 := if first = 0#4 then code else first

/-- STATUS as the host reads it, zext_32 of the fields from BUSY down to LAST_OK (10_state.md R39); bits 31:17 are 0
(R30). -/
def statusWord (s : State) : BitVec 32 :=
  (BitVec.ofBool s.busy ++ s.errBlock ++ s.firstErr ++ s.lastErr ++ BitVec.ofBool s.posvecV ++
    BitVec.ofBool s.payloadV ++ BitVec.ofBool s.runValid ++ BitVec.ofBool s.lastOk).setWidth 32

/-- AGG_STAT: EQ is bit 8, MATCH bits 7:0, bits 15:9 are 0 (10_state.md R35; 46_aggregator_run.md R165). -/
def aggStatWord (eq : Bool) (m : Nat) : BitVec 16 := (BitVec.ofBool eq).setWidth 16 * 256#16 + BitVec.ofNat 16 m

end Sys2Proof.Machine
end

