-- ==== Sys2Proof/Machine/Operands.lean ====
section
/-!
DEFINITION. Machine/Operands.lean: the operands commands read: PAYLOAD and POSVEC (10_state.md R21, R24, R25), the blocks
of the one and the position fields of the other, and which positions are legal (60_exceptions.md R212).
-/

namespace Sys2Proof.Machine

/-- Block i of a payload, X[8i+7:8i] (41_splitter.md R100), for i in 0 to 15. -/
def split (x : Payload) (i : Nat) : Block := x.extractLsb' (8 * i) 8

/-- POS_i = POSVEC[4i+3:4i] (10_state.md R25), for i in 0 to 15. -/
def posField (q : PosVec) (i : Nat) : Nibble := q.extractLsb' (4 * i) 4

/-- Only 1 to 8 are legal error positions (10_state.md R25, 60_exceptions.md R212). -/
def legalPos (p : Nibble) : Bool := decide (1 ≤ p.toNat) && decide (p.toNat ≤ 8)

/-- The lowest block index whose POS_i is illegal, if any (60_exceptions.md R212). -/
def firstIllegalPos (q : PosVec) : Option BlockIndex :=
  (List.finRange blockCount).find? fun i => !legalPos (posField q i)

/-- PAYLOAD as a command reads it: nothing while PAYLOAD_V = 0 (60_exceptions.md R210) or while PAYLOAD holds no value
(10_state.md R21). In reached states the two conditions are one (R39, log 6). -/
def payloadOperand (s : State) : Option Payload := if s.payloadV then s.payload else none

/-- POSVEC as a command reads it: nothing while POSVEC_V = 0 (60_exceptions.md R211) or while POSVEC holds no value
(10_state.md R21, log 6). -/
def posvecOperand (s : State) : Option PosVec := if s.posvecV then s.posvec else none

end Sys2Proof.Machine
end

