-- ==== Sys2Proof/Machine/Ops.lean ====
section
/-!
DEFINITION. Machine/Ops.lean: the shared operations: the notation functions of 00_scope.md R14, completing a command
(60_exceptions.md R201), raising a fault (R202), and finishing a unit command with a RESULT (10_state.md R33).
-/

namespace Sys2Proof.Machine

/-- onehot7(s): only bit s-1 set for s in 1 to 7, and 0 for s = 0 (00_scope.md R14). -/
def onehot7 (s : Nat) : Word7 := if s = 0 then 0#7 else 1#7 <<< (s - 1)

/-- popcount(v): the number of 1 bits (00_scope.md R14). -/
def popcount {n : Nat} (v : BitVec n) : Nat := (List.range n).countP fun k => v.getLsbD k

/-- Complete() (60_exceptions.md R201). -/
def complete (s : State) : State :=
  { s with lastOk := true, lastErr := 0#4, errBlock := 0#4, busy := false }

/-- `raise Fault(code, blk)` (60_exceptions.md R202): the whole of fault entry; there is no trap (R204). -/
def raiseFault (code : FaultCode) (blk : BitVec 4) (s : State) : State :=
  { s with
    lastOk := false
    lastErr := code.toBits
    firstErr := firstErrAfter s.firstErr code.toBits
    errBlock := blk
    busy := false }

/-- A fault of a legally encoded RUN also clears RUN_VALID (60_exceptions.md R202). -/
def raiseRunFault (code : FaultCode) (blk : BitVec 4) (s : State) : State :=
  { raiseFault code blk s with runValid := false }

/-- RESULT <- v, all 16 bits (10_state.md R33). -/
def setResult (v : BitVec 16) (s : State) : State := { s with result := v }

/-- FIRST_ERR <- 0 (47_control.md R181). -/
def clearFirstErr (s : State) : State := { s with firstErr := 0#4 }

/-- A unit command completes: its 16-bit RESULT, then Complete() (30_encoding.md R76). -/
def finishWith (v : BitVec 16) (s : State) : Host.Outcome State Fault Refusal := .next (complete (setResult v s))

/-- A command ends in a recorded fault (60_exceptions.md R202, R203). -/
def faultWith (code : FaultCode) (s : State) : Host.Outcome State Fault Refusal := .next (raiseFault code 0#4 s)

end Sys2Proof.Machine
end

