-- ==== Sys2Proof/Machine/Codec.lean ====
section
/-!
DEFINITION. Machine/Codec.lean: the HammingCodec and its commands PARITY, SYNDROME and LOCATE (42_codec.md).

Words are 0-indexed as in the source: `w[n]` is the source's R[n] (R110).
-/

namespace Sys2Proof.Machine

/-- p1 of the parity encoder (R111). -/
def parityBit1 (w : Word7) : Bool := w.getLsbD 2 ^^ w.getLsbD 4 ^^ w.getLsbD 6

/-- p2 of the parity encoder (R111). -/
def parityBit2 (w : Word7) : Bool := w.getLsbD 2 ^^ w.getLsbD 5 ^^ w.getLsbD 6

/-- p4 of the parity encoder (R111). -/
def parityBit4 (w : Word7) : Bool := w.getLsbD 4 ^^ w.getLsbD 5 ^^ w.getLsbD 6

/-- parity7(W) as {p4, p2, p1} (R111, R114). -/
def parity7 (w : Word7) : BitVec 3 :=
  BitVec.ofBool (parityBit4 w) ++ BitVec.ofBool (parityBit2 w) ++ BitVec.ofBool (parityBit1 w)

/-- s1 of the syndrome decoder (R112). -/
def syndromeBit1 (w : Word7) : Bool := w.getLsbD 0 ^^ w.getLsbD 2 ^^ w.getLsbD 4 ^^ w.getLsbD 6

/-- s2 of the syndrome decoder (R112). -/
def syndromeBit2 (w : Word7) : Bool := w.getLsbD 1 ^^ w.getLsbD 2 ^^ w.getLsbD 5 ^^ w.getLsbD 6

/-- s3 of the syndrome decoder (R112). -/
def syndromeBit3 (w : Word7) : Bool := w.getLsbD 3 ^^ w.getLsbD 4 ^^ w.getLsbD 5 ^^ w.getLsbD 6

/-- syndrome7(W), error_pos = {s3, s2, s1} = s1 + 2*s2 + 4*s3 (R112). -/
def syndrome7 (w : Word7) : Syndrome :=
  BitVec.ofBool (syndromeBit3 w) ++ BitVec.ofBool (syndromeBit2 w) ++ BitVec.ofBool (syndromeBit1 w)

/-- locate(S) = onehot7(S): the mask the corrector XORs in (R113). -/
def locate (e : Syndrome) : Word7 := onehot7 e.toNat

/-- PARITY (R114). -/
def execParity (w : Word7) (s : State) : Host.Outcome State Fault Refusal := finishWith ((parity7 w).setWidth 16) s

/-- SYNDROME (R115). -/
def execSyndrome (w : Word7) (s : State) : Host.Outcome State Fault Refusal := finishWith ((syndrome7 w).setWidth 16) s

/-- LOCATE (R116). -/
def execLocate (e : Syndrome) (s : State) : Host.Outcome State Fault Refusal := finishWith ((locate e).setWidth 16) s

end Sys2Proof.Machine
end

