-- ==== Sys2Proof/Machine/Corrector.lean ====
section
/-!
DEFINITION. Machine/Corrector.lean: the ErrorCorrector and the CORRECT command (44_corrector.md).
-/

namespace Sys2Proof.Machine

/-- correct7(X): flip the position the syndrome names, or none (R140). -/
def correct7 (x : Word7) : Word7 := x ^^^ locate (syndrome7 x)

/-- CORRECT: RESULT = error_pos * 256 + the corrected word (R142). -/
def execCorrect (w : Word7) (s : State) : Host.Outcome State Fault Refusal :=
  finishWith ((syndrome7 w).setWidth 16 * 256#16 + (correct7 w).setWidth 16) s

end Sys2Proof.Machine
end

