-- ==== Sys2Proof/Machine/Injector.lean ====
section
/-!
DEFINITION. Machine/Injector.lean: the ErrorInjector and the INJECT command (43_injector.md).
-/

namespace Sys2Proof.Machine

/-- inject8(B, p) = B ^ (1 << (p-1)) (R130). R130 defines it for p in 1 to 8 only, and every command checks p first
(R132, R152, R165): the values at other p are never used (log 15). -/
def inject8 (b : Block) (p : Nibble) : Block := b ^^^ (1#8 <<< (p.toNat - 1))

/-- inject7(W, p) = W ^ onehot7(p), the source's 7-bit use (R133). -/
def inject7 (w : Word7) (p : Nat) : Word7 := w ^^^ onehot7 p

/-- INJECT (R132): InvalidErrorPosition with ERR_BLOCK 0 when p is outside 1 to 8. -/
def execInject (b : Block) (p : Nibble) (s : State) : Host.Outcome State Fault Refusal :=
  if legalPos p then finishWith ((inject8 b p).setWidth 16) s else faultWith .invalidErrorPosition s

end Sys2Proof.Machine
end

