-- ==== Sys2Proof/Machine/BlockProcessor.lean ====
section
/-!
DEFINITION. Machine/BlockProcessor.lean: the BlockProcessor with its 8th-bit rule, and the PROCESS command
(45_block_processor.md).
-/

namespace Sys2Proof.Machine

/-- received: the block after injection (R150). -/
def received8 (b : Block) (p : Nibble) : Block := inject8 b p

/-- corrected[7]: "undo the injected flip" when p = 8, else "pass through, uncorrected" (R150). -/
def correctedBit8 (b : Block) (p : Nibble) : Bool :=
  if p = 8#4 then !(received8 b p).getLsbD 7 else (received8 b p).getLsbD 7

/-- corrected: the corrector on positions 1 to 7 whatever p is, and the 8th-bit rule (R150). -/
def corrected8 (b : Block) (p : Nibble) : Block :=
  BitVec.ofBool (correctedBit8 b p) ++ correct7 ((received8 b p).extractLsb' 0 7)

/-- PROCESS (R152): RESULT = corrected * 256 + received; InvalidErrorPosition when p is outside 1 to 8. -/
def execProcess (b : Block) (p : Nibble) (s : State) : Host.Outcome State Fault Refusal :=
  if legalPos p then finishWith ((corrected8 b p).setWidth 16 * 256#16 + (received8 b p).setWidth 16) s
  else faultWith .invalidErrorPosition s

end Sys2Proof.Machine
end

