-- ==== Sys2Proof/Machine/Aggregator.lean ====
section
/-!
DEFINITION. Machine/Aggregator.lean: the lanes of a run, the ResultAggregator, and the RUN command
(46_aggregator_run.md).
-/

namespace Sys2Proof.Machine

/-- The record of one block (10_state.md R34): the BlockResult of the source and the received block. The index is the
lane's own and is not stored. -/
structure BlockResult where
  original : Block
  position : Nibble
  received : Block
  corrected : Block
  deriving DecidableEq, Repr

/-- Lane i of a run: process8 of block i at POS_i (R165); it reads nothing of another lane (R162). -/
def lane (x : Payload) (q : PosVec) (i : BlockIndex) : BlockResult :=
  let b := split x i
  let p := posField q i
  { original := b, position := p, received := received8 b p, corrected := corrected8 b p }

/-- The concatenation of 16 blocks with block 0 least significant, out[8i+k] = f i [k] (R160). -/
def concatBlocks (f : BlockIndex → Block) : BitVec 128 :=
  f 15 ++ f 14 ++ f 13 ++ f 12 ++ f 11 ++ f 10 ++ f 9 ++ f 8 ++ f 7 ++ f 6 ++ f 5 ++ f 4 ++ f 3 ++ f 2 ++ f 1 ++ f 0

/-- Output (a) of the aggregator, the original string (R160). -/
def aggregateOrig (res : BlockIndex → BlockResult) : BitVec 128 := concatBlocks fun i => (res i).original

/-- Output (b) of the aggregator, the corrected string (R160). -/
def aggregateCorr (res : BlockIndex → BlockResult) : BitVec 128 := concatBlocks fun i => (res i).corrected

/-- Output (c), the equality of two strings (R160). -/
def aggregateEq (o c : BitVec 128) : Bool := decide (o = c)

/-- Output (d), popcount(~(O ^ C)), the number of agreeing bits (R160). -/
def aggregateMatch (o c : BitVec 128) : Nat := popcount (~~~(o ^^^ c))

/-- The writes of a RUN that passes its checks (R165): all entries of all four banks, the AGG registers, RUN_VALID. -/
def storeRun (x : Payload) (q : PosVec) (s : State) : State :=
  let o := aggregateOrig (lane x q)
  let c := aggregateCorr (lane x q)
  { s with
    resOrig := Vector.ofFn fun i => some (lane x q i).original
    resPos := Vector.ofFn fun i => some (lane x q i).position
    resRecv := Vector.ofFn fun i => some (lane x q i).received
    resCorr := Vector.ofFn fun i => some (lane x q i).corrected
    aggOrig := some o
    aggCorr := some c
    aggStat := some (aggStatWord (aggregateEq o c) (aggregateMatch o c))
    runValid := true }

/-- RUN (R165): the checks in the order MissingInput, MissingPositions, InvalidErrorPosition with the lowest illegal
block (60_exceptions.md R207), then all the writes at once. -/
def execRun (s : State) : Host.Outcome State Fault Refusal :=
  match payloadOperand s, posvecOperand s with
  | none, _ => .next (raiseRunFault .missingInput 0#4 s)
  | some _, none => .next (raiseRunFault .missingPositions 0#4 s)
  | some x, some q =>
    match firstIllegalPos q with
    | some i => .next (raiseRunFault .invalidErrorPosition (BitVec.ofNat 4 i) s)
    | none => .next (complete (storeRun x q s))

end Sys2Proof.Machine
end

