-- ==== Sys2Proof/Machine/Control.lean ====
section
/-!
DEFINITION. Machine/Control.lean: the control commands NOP and CLRERR (47_control.md).
-/

namespace Sys2Proof.Machine

/-- NOP: nothing but completion (R180). -/
def execNop (s : State) : Host.Outcome State Fault Refusal := .next (complete s)

/-- CLRERR: FIRST_ERR <- 0, then completion (R181). -/
def execClrerr (s : State) : Host.Outcome State Fault Refusal := .next (complete (clearFirstErr s))

end Sys2Proof.Machine
end

