-- ==== Sys2Proof/Machine/Splitter.lean ====
section
/-!
DEFINITION. Machine/Splitter.lean: the SPLIT command (41_splitter.md); the splitter function is `split` of Operands.lean.
-/

namespace Sys2Proof.Machine

/-- SPLIT (R101): MissingInput when PAYLOAD has not been written, else block I of PAYLOAD. -/
def execSplit (idx : Nibble) (s : State) : Host.Outcome State Fault Refusal :=
  match payloadOperand s with
  | none => faultWith .missingInput s
  | some x => finishWith ((split x idx.toNat).setWidth 16) s

end Sys2Proof.Machine
end

