-- ==== Sys2Proof/Machine/Dispatch.lean ====
section
/-!
DEFINITION. Machine/Dispatch.lean: exec, one arm per command (the case of 30_encoding.md R76, with its Complete).
-/

namespace Sys2Proof.Machine

def exec (i : Instr) (s : State) : Host.Outcome State Fault Refusal :=
  match i with
  | .nop => Sys2Proof.Machine.execNop s
  | .parity w => Sys2Proof.Machine.execParity w s
  | .syndrome w => Sys2Proof.Machine.execSyndrome w s
  | .locate e => Sys2Proof.Machine.execLocate e s
  | .correct w => Sys2Proof.Machine.execCorrect w s
  | .inject b p => Sys2Proof.Machine.execInject b p s
  | .process b p => Sys2Proof.Machine.execProcess b p s
  | .split idx => Sys2Proof.Machine.execSplit idx s
  | .run => Sys2Proof.Machine.execRun s
  | .clrerr => Sys2Proof.Machine.execClrerr s

end Sys2Proof.Machine
end

