-- ==== Sys2Proof/Machine/HostPort.lean ====
section
/-!
DEFINITION. Machine/HostPort.lean: Execute(w) (30_encoding.md R76), the host actions (20_memory.md R54 to R58), reset
(70_reset_and_hazards.md R230, R231), and the taking of the host's next action.
-/

namespace Sys2Proof.Machine

/-- Execute(w) (30_encoding.md R76): decode, then the command; a word that decodes to nothing raises IllegalCommand and
changes nothing else, RUN_VALID included (60_exceptions.md R202, R213). -/
def execute (w : CmdWord) (s : State) : Host.Outcome State Fault Refusal :=
  match decode w with
  | .ok i => exec i s
  | .error _ => faultWith .illegalCommand s

/-- PAYLOAD, POSVEC and CMD are the registers a host may write (20_memory.md R54). -/
def hostWritable (r : Reg) : Bool :=
  match r with
  | .payload | .posvec | .cmd => true
  | .result | .status | .resOrig _ | .resPos _ | .resRecv _ | .resCorr _ | .aggOrig | .aggCorr | .aggStat => false

/-- Every register but CMD may be read (20_memory.md R54). -/
def hostReadable (r : Reg) : Bool :=
  match r with
  | .cmd => false
  | .payload | .posvec | .result | .status | .resOrig _ | .resPos _ | .resRecv _ | .resCorr _ | .aggOrig | .aggCorr
  | .aggStat => true

/-- The value a register holds, if it holds one (10_state.md R21, R39). CMD keeps no value (R32). -/
def regValue (s : State) : (r : Reg) → Option (BitVec r.width)
  | .payload => s.payload
  | .posvec => s.posvec
  | .cmd => none
  | .result => some s.result
  | .status => some (statusWord s)
  | .resOrig i => s.resOrig[i.val]
  | .resPos i => s.resPos[i.val]
  | .resRecv i => s.resRecv[i.val]
  | .resCorr i => s.resCorr[i.val]
  | .aggOrig => s.aggOrig
  | .aggCorr => s.aggCorr
  | .aggStat => s.aggStat

/-- What a host_read returns: the value held, or an unconstrained one (20_memory.md R55, log 3). -/
def readValue (s : State) (r : Reg) : BitVec r.width := (regValue s r).getD (Config.freeRead s.drawEra r)

/-- A host write or a reset begins a new era of free values (R55, log 3). -/
def newEra (s : State) : State := { s with drawEra := s.drawEra + 1 }

/-- host_write(PAYLOAD, v) (20_memory.md R56). -/
def hostWritePayload (v : Payload) (s : State) : State := { newEra s with payload := some v, payloadV := true }

/-- host_write(POSVEC, v) (20_memory.md R57). -/
def hostWritePosvec (v : PosVec) (s : State) : State := { newEra s with posvec := some v, posvecV := true }

/-- host_write(CMD, w) (20_memory.md R58). -/
def hostWriteCmd (w : CmdWord) (s : State) : Host.Outcome State Fault Refusal := execute w (newEra s)

/-- host_read(R): no effect on the core; the host has the value (20_memory.md R55). -/
def hostRead (r : Reg) (s : State) : State := { s with reply := some { reg := r, value := readValue s r } }

/-- Reset puts the core in the reset state, whatever it held before (70_reset_and_hazards.md R230); the host keeps its
further actions and its last reply (log 10). -/
def hostReset (s : State) : State :=
  { State.reset with pending := s.pending, reply := s.reply, drawEra := s.drawEra + 1 }

/-- One action of the host (20_memory.md R54): refused when it is none of R54's, without a move while BUSY = 1
(70_reset_and_hazards.md R240), else its effect. -/
def act (a : HostAction) (s : State) : Host.Outcome State Fault Refusal :=
  match a with
  | .reset => .next (hostReset s)
  | .read r width =>
    if hostReadable r = false then .refused .readOfWriteOnly
    else if width ≠ r.width then .refused .wrongWidth
    else if s.busy = true ∧ r ≠ .status then .fault .hostActionWhileBusy
    else .next (hostRead r s)
  | .write r width v =>
    if hostWritable r = false then .refused .writeOfReadOnly
    else if width ≠ r.width then .refused .wrongWidth
    else if s.busy = true then .fault .hostActionWhileBusy
    else
      match r with
      | .payload => .next (hostWritePayload (v.setWidth 128) s)
      | .posvec => .next (hostWritePosvec (v.setWidth 64) s)
      | .cmd => hostWriteCmd (v.setWidth 16) s
      | .result | .status | .resOrig _ | .resPos _ | .resRecv _ | .resCorr _ | .aggOrig | .aggCorr | .aggStat =>
        .refused .writeOfReadOnly

/-- Take the host's next action; with none the core waits and keeps all of its state (60_exceptions.md R222,
70_reset_and_hazards.md R232; log 2). -/
def hostStep (s : State) : Host.Outcome State Fault Refusal :=
  match s.pending with
  | [] => .next s
  | a :: rest => act a { s with pending := rest }

/-- The host action that issues a command word of `nbits` bits, the bits above them 0 (20_memory.md R58). -/
def issueAction (nbits w : Nat) : HostAction := .write .cmd 16 (BitVec.ofNat 16 (w % 2 ^ nbits))

end Sys2Proof.Machine
end

