-- ==== Sys2Proof/Machine/Step.lean ====
section
/-!
DEFINITION. Machine/Step.lean: one step of the machine is the host's next action (20_memory.md R51, R54), and where an
instruction is placed so that the next step runs it: the core fetches nothing (10_state.md R23), the host writes CMD.
-/

namespace Sys2Proof.Machine

/-- One step (20_memory.md R50, R51). -/
def step (s : State) : Host.Outcome State Fault Refusal := hostStep s

/-- `s` with a host_write(CMD) of the word as the host's next action, and BUSY = 0, which R54 requires of it (log 12). -/
def State.withFetchWord (s : State) (nbits w : Nat) : State :=
  { s with pending := issueAction nbits w :: s.pending, busy := false }

end Sys2Proof.Machine
end

