-- ==== Sys2Proof/WellFormed.lean ====
section
/-!
DEFINITION. WellFormed.lean: which assembler lines the assembler accepts (30_encoding.md R79, R80).

An `Instr` carries its operand ranges in its types, so the checks that remain are those on the lines a program is
written in: string lengths and characters, and the ranges of hexadecimal and decimal operands.
-/

namespace Sys2Proof

/-- A character of a bit string (00_scope.md glossary, BitString: "each exactly 0 or 1"). -/
def isBitChar (c : Char) : Bool := c == '0' || c == '1'

/-- The operand denotes an `n`-bit value: a string of exactly `n` bit characters, or a value below 2^n. -/
def AsmOperand.wellFormed (n : Nat) : AsmOperand → Bool
  | .quoted cs => cs.length == n && cs.all isBitChar
  | .hex v => decide (v < 2 ^ n)

/-- "the assembler accepts s in 0 to 7, p in 0 to 15 and i in 0 to 15 and refuses any other value"; word operands have
7 bits, block operands 8, a payload 128, and a position list 16 entries of 4 bits (R79, R80). -/
def AsmLine.wellFormed : AsmLine → Bool
  | .nop => true
  | .parity w => w.wellFormed 7
  | .syndrome w => w.wellFormed 7
  | .locate e => decide (e < 8)
  | .correct w => w.wellFormed 7
  | .inject b p => b.wellFormed 8 && decide (p < 16)
  | .process b p => b.wellFormed 8 && decide (p < 16)
  | .split idx => decide (idx < 16)
  | .run => true
  | .clrerr => true
  | .writePayload v => v.wellFormed 128
  | .writePosvec ps => ps.length == 16 && ps.all (fun p => decide (p < 16))
  | .read r => decide (r ≠ .cmd)

end Sys2Proof
end

