-- ==== Sys2Proof/Machine/Assembler.lean ====
section
/-!
DEFINITION. Machine/Assembler.lean: what the lines of a program assemble to (30_encoding.md R79, R80).
-/

namespace Sys2Proof.Machine

/-- A bit string as a number, character j being bit j (00_scope.md R12). -/
def natOfChars : List Char → Nat
  | [] => 0
  | c :: cs => (if c = '1' then 1 else 0) + 2 * natOfChars cs

/-- The `n`-bit value of an operand (R79). -/
def operandValue (n : Nat) : AsmOperand → BitVec n
  | .quoted cs => BitVec.ofNat n (natOfChars cs)
  | .hex v => BitVec.ofNat n v

/-- A position list as a number, entry i at bits 4i+3:4i (10_state.md R25, 30_encoding.md R80). -/
def natOfPositions : List Nat → Nat
  | [] => 0
  | p :: ps => p + 16 * natOfPositions ps

/-- The command of a command line; host-action lines are no commands (R80). -/
def lineInstr : AsmLine → Option Instr
  | .nop => some .nop
  | .parity w => some (.parity (operandValue 7 w))
  | .syndrome w => some (.syndrome (operandValue 7 w))
  | .locate e => some (.locate (BitVec.ofNat 3 e))
  | .correct w => some (.correct (operandValue 7 w))
  | .inject b p => some (.inject (operandValue 8 b) (BitVec.ofNat 4 p))
  | .process b p => some (.process (operandValue 8 b) (BitVec.ofNat 4 p))
  | .split idx => some (.split (BitVec.ofNat 4 idx))
  | .run => some .run
  | .clrerr => some .clrerr
  | .writePayload _ | .writePosvec _ | .read _ => none

/-- The assembled word of a line the assembler accepts (R79); a host-action line assembles to nothing (R80). -/
def assembleWord (l : AsmLine) : Option CmdWord := if l.wellFormed then (lineInstr l).map encode else none

/-- What the host does for an accepted line: issue the command word, or the host action itself (R80). -/
def lineAction (l : AsmLine) : Option HostAction :=
  if l.wellFormed then
    match l with
    | .writePayload v => some (.write .payload 128 (operandValue 128 v))
    | .writePosvec ps => some (.write .posvec 64 (BitVec.ofNat 64 (natOfPositions ps)))
    | .read r => some (.read r r.width)
    | .nop | .parity _ | .syndrome _ | .locate _ | .correct _ | .inject _ _ | .process _ _ | .split _ | .run
    | .clrerr => (assembleWord l).map fun w => .write .cmd 16 w
  else none

/-- A program is the host's sequence of actions (95_test_vectors.md section 3); none if a line is not accepted. -/
def programActions (ls : List AsmLine) : Option (List HostAction) := ls.mapM lineAction

end Sys2Proof.Machine
end

