-- ==== Sys2Proof/Machine/Shell.lean ====
section
/-!
DEFINITION. Machine/Shell.lean: the host's duties as 20_memory.md R65 to R67 and 70_reset_and_hazards.md R234 state them.

The shell is outside the core (00_scope.md R7): no step uses these definitions and no step assumes that a host keeps
the duties (log 14).
-/

namespace Sys2Proof.Machine

/-- The two errors the shell finds before it invokes the core (R65). -/
inductive ShellError where
  | missingInput
  | malformedInput
  deriving DecidableEq, Repr

/-- The numbering a host may report them in (60_exceptions.md R200, R214). -/
def ShellError.toCode : ShellError → FaultCode
  | .missingInput => .missingInput
  | .malformedInput => .malformedInput

/-- The only message text the source gives for a rejected input, that of a wrong length (R65). -/
def wrongLengthMessage : String := "Please enter exactly 128 bits (0s and 1s)"

/-- Bit j of the value from character j (00_scope.md R12, R65). -/
def payloadOfChars (cs : List Char) : Payload := BitVec.ofNat 128 (natOfChars cs)

/-- The input duty (R65): empty input is MissingInput; a wrong length or another character is MalformedInput. -/
def shellInput (cs : List Char) : Except ShellError Payload :=
  if cs = [] then .error .missingInput
  else if cs.length ≠ 128 ∨ cs.all isBitChar = false then .error .malformedInput
  else .ok (payloadOfChars cs)

/-- "A register's string has bit j of the register as character j" (R67). -/
def stringOf {n : Nat} (v : BitVec n) : List Char := (List.range n).map fun j => if v.getLsbD j then '1' else '0'

/-- One row of the output table (R67). -/
structure OutputRow where
  blockNo : Nat
  original : List Char
  errorBitPosition : Nat
  corrected : List Char
  deriving DecidableEq, Repr

/-- Row i+1 of the output table (R67). -/
def outputRow (s : State) (i : BlockIndex) : OutputRow where
  blockNo := i.val + 1
  original := stringOf (n := 8) (readValue s (.resOrig i))
  errorBitPosition := (readValue s (.resPos i)).toNat
  corrected := stringOf (n := 8) (readValue s (.resCorr i))

/-- All that the shell renders after a run (R67); `pass` keys its message, whose text the source does not give. -/
structure ShellOutput where
  rows : List OutputRow
  original : List Char
  corrected : List Char
  pass : Bool
  countMessage : String
  deriving DecidableEq, Repr

/-- "Successfully corrected N out of 128 bits" (R67). -/
def countMessage (n : Nat) : String := "Successfully corrected " ++ toString n ++ " out of 128 bits"

/-- The output duty (R67), owed only after a RUN that completed (STATUS.RUN_VALID = 1). -/
def shellOutput (s : State) : Option ShellOutput :=
  if s.runValid then
    let stat : BitVec 16 := readValue s .aggStat
    some
      { rows := (List.finRange blockCount).map (outputRow s)
        original := stringOf (n := 128) (readValue s .aggOrig)
        corrected := stringOf (n := 128) (readValue s .aggCorr)
        pass := stat.getLsbD 8
        countMessage := countMessage (stat.extractLsb' 0 8).toNat }
  else none

/-- The host actions that make up a run of the source (70_reset_and_hazards.md R234), before its reads. -/
def runActions (x : Payload) (q : PosVec) : List HostAction :=
  [.write .payload 128 x, .write .posvec 64 q, .write .cmd 16 0x0008#16]

/-- The host reads that follow: STATUS, the banks and the AGG registers (R234). -/
def readBackActions : List HostAction :=
  [HostAction.read .status 32] ++
    (List.finRange blockCount).flatMap (fun i =>
      [.read (.resOrig i) 8, .read (.resPos i) 4, .read (.resRecv i) 8, .read (.resCorr i) 8]) ++
    [.read .aggOrig 128, .read .aggCorr 128, .read .aggStat 16]

end Sys2Proof.Machine
end

