-- ==== Sys2Proof/Safety.lean ====
section
/-!
DEFINITION. Safety.lean: the terms claims are stated in: codewords and legal positions, which host actions are ones of
20_memory.md R54, which commands write RESULT (10_state.md R33), and the invariant of reached states.
-/

namespace Sys2Proof.Safety

open Sys2Proof.Machine

/-- A codeword: a 7-bit word whose syndrome is 0 (00_scope.md, glossary). -/
def Codeword (w : Word7) : Prop := syndrome7 w = 0#3

/-- Every POS_i is in 1 to 8 (10_state.md R25, the host's position duty of 20_memory.md R66). -/
def PositionsLegal (q : PosVec) : Prop := ∀ i : BlockIndex, 1 ≤ (posField q i).toNat ∧ (posField q i).toNat ≤ 8

/-- The action is one of the table of 20_memory.md R54, or a reset (70_reset_and_hazards.md R231). -/
def listedAction : HostAction → Bool
  | .reset => true
  | .read r width => hostReadable r && decide (width = r.width)
  | .write r width _ => hostWritable r && decide (width = r.width)

/-- The unit commands, which write RESULT when they complete (10_state.md R33). -/
def unitCommand : Instr → Bool
  | .parity _ | .syndrome _ | .locate _ | .correct _ | .inject _ _ | .process _ _ | .split _ => true
  | .nop | .run | .clrerr => false

/-- The legally encoded RUN word (30_encoding.md R75). -/
abbrev runWord : CmdWord := 0x0008#16

/-- The legally encoded CLRERR word (30_encoding.md R75). -/
abbrev clrerrWord : CmdWord := 0x0009#16

/-- A code the core may record: 0 and the codes it raises, never 2 nor 6 to 15 (60_exceptions.md R200). -/
def recordableCode (c : BitVec 4) : Prop := c = 0#4 ∨ c = 1#4 ∨ c = 3#4 ∨ c = 4#4 ∨ c = 5#4

/-- All four banks and the AGG registers hold exactly the results of the RUN over `x` and `q`
(10_state.md R27, R34, R35; 46_aggregator_run.md R165). -/
def BanksHold (x : Payload) (q : PosVec) (s : State) : Prop :=
  (∀ i : BlockIndex,
    s.resOrig[i.val] = some (split x i) ∧
    s.resPos[i.val] = some (posField q i) ∧
    s.resRecv[i.val] = some (received8 (split x i) (posField q i)) ∧
    s.resCorr[i.val] = some (corrected8 (split x i) (posField q i))) ∧
  s.aggOrig = some x ∧
  ∃ c : BitVec 128,
    s.aggCorr = some c ∧
    (∀ i : BlockIndex, c.extractLsb' (8 * i.val) 8 = corrected8 (split x i) (posField q i)) ∧
    s.aggStat = some (aggStatWord (decide (x = c)) (popcount (~~~(x ^^^ c))))

/-- No bank entry and no AGG register has been written (70_reset_and_hazards.md R230). -/
def BanksEmpty (s : State) : Prop :=
  (∀ i : BlockIndex,
    s.resOrig[i.val] = none ∧ s.resPos[i.val] = none ∧ s.resRecv[i.val] = none ∧ s.resCorr[i.val] = none) ∧
  s.aggOrig = none ∧ s.aggCorr = none ∧ s.aggStat = none

/-- The inputs hold a value exactly when their valid bits say so (10_state.md R39). -/
def InputsAgree (s : State) : Prop := s.payloadV = s.payload.isSome ∧ s.posvecV = s.posvec.isSome

/-- The STATUS fields agree with each other (10_state.md R26, R29; 60_exceptions.md R200 to R202). -/
def StatusAgrees (s : State) : Prop :=
  s.busy = false ∧
  recordableCode s.lastErr ∧ recordableCode s.firstErr ∧
  (s.lastOk = true → s.lastErr = 0#4) ∧
  (s.lastErr ≠ 0#4 → s.firstErr ≠ 0#4) ∧
  (s.errBlock ≠ 0#4 → s.lastErr = 3#4)

/-- The banks are empty and RUN_VALID is 0, or they hold the results of one RUN over legal positions, whole: no partial
result is ever visible (10_state.md R27, 20_memory.md R50). -/
def BanksAgree (s : State) : Prop :=
  (BanksEmpty s ∧ s.runValid = false) ∨ ∃ x q, PositionsLegal q ∧ BanksHold x q s

/-- What holds in every reached state. -/
def CoreInvariant (s : State) : Prop := InputsAgree s ∧ StatusAgrees s ∧ BanksAgree s

end Sys2Proof.Safety
end

