-- ==== Sys2Proof/Certificates/Slice0/Obligations.lean ====
section
/-!
DEFINITION. Certificates/Slice0/Obligations.lean: the statements for the provers. Each docstring names the rule of spec/ it
formalises; where a clause rests on a choice of the model it names the log entry.

The vocabulary under `Sys2Proof.Claim` is written from the rules, not from the model's operations: the state after a
completed and after a faulting command (60_exceptions.md R201, R202), and a command word put together from its fields.
-/

namespace Sys2Proof.Claim

open Sys2Proof.Machine

/-- The state after a command that completes and writes nothing else (60_exceptions.md R201). -/
def completed (s : State) : State := { s with lastOk := true, lastErr := 0#4, errBlock := 0#4, busy := false }

/-- The state after a unit command that completes with RESULT = v. -/
def completedWith (v : BitVec 16) (s : State) : State :=
  { s with result := v, lastOk := true, lastErr := 0#4, errBlock := 0#4, busy := false }

/-- The state after a command that raises Fault(code, blk) (60_exceptions.md R202). -/
def faulted (code blk : BitVec 4) (s : State) : State :=
  { s with
    lastOk := false
    lastErr := code
    firstErr := if s.firstErr = 0#4 then code else s.firstErr
    errBlock := blk
    busy := false }

/-- The same for a legally encoded RUN, which also clears RUN_VALID (60_exceptions.md R202). -/
def runFaulted (code blk : BitVec 4) (s : State) : State := { faulted code blk s with runValid := false }

/-- The command word {D, P, OPC} (30_encoding.md R74). -/
def word (d : BitVec 8) (p opc : BitVec 4) : CmdWord := (d ++ p) ++ opc

/-- The MASK list of 30_encoding.md R76. -/
def maskList : List CmdWord :=
  [0xFFFF#16, 0x80FF#16, 0x80FF#16, 0xF8FF#16, 0x80FF#16, 0x000F#16, 0x000F#16, 0xFF0F#16, 0xFFFF#16, 0xFFFF#16]

/-- A word is illegal: OPC 0xA to 0xF, or a bit its opcode's row requires to be 0 is 1 (60_exceptions.md R213). -/
def illegalWord (w : CmdWord) : Prop :=
  10 ≤ w.toNat % 16 ∨ ∃ mask, maskList[w.toNat % 16]? = some mask ∧ w &&& mask ≠ BitVec.ofNat 16 (w.toNat % 16)

/-- The number of bits in which two 8-bit blocks agree. -/
def agreeing (a b : Block) : Nat := (List.range 8).countP fun k => a.getLsbD k == b.getLsbD k

/-- The bits of RESULT that a unit command defines (42_codec.md R114 to R116, 44_corrector.md R142, 43_injector.md R132,
45_block_processor.md R152, 41_splitter.md R101). -/
def resultBits : Instr → BitVec 16
  | .parity _ => 0x0007#16
  | .syndrome _ => 0x0007#16
  | .locate _ => 0x007F#16
  | .correct _ => 0x077F#16
  | .inject _ _ => 0x00FF#16
  | .process _ _ => 0xFFFF#16
  | .split _ => 0x00FF#16
  | .nop | .run | .clrerr => 0x0000#16

/-- An operand as it is written denotes the n-bit value `v`: a quoted string of n characters with character j at bit j, or
the register value in hexadecimal (30_encoding.md R79, 00_scope.md R12). -/
def denotes {n : Nat} (o : AsmOperand) (v : BitVec n) : Prop :=
  match o with
  | .quoted cs => cs.length = n ∧ ∀ j : Nat, j < n → cs[j]? = some (if v.getLsbD j then '1' else '0')
  | .hex k => k = v.toNat

/-- Commands executed one after another, stopping where one has no next state. -/
def runCommands : List CmdWord → State → Option State
  | [], s => some s
  | w :: ws, s =>
    match execute w s with
    | .next t => runCommands ws t
    | .fault _ => none
    | .refused _ => none

/-- `t` with the model's own fields `reply` and `drawEra` of `s`. -/
def sameDraws (s t : State) : State := { t with reply := s.reply, drawEra := s.drawEra }

/-- The four banks and the AGG registers of `t` are those of `s`. -/
def sameBanks (s t : State) : Prop :=
  t.resOrig = s.resOrig ∧ t.resPos = s.resPos ∧ t.resRecv = s.resRecv ∧ t.resCorr = s.resCorr ∧
    t.aggOrig = s.aggOrig ∧ t.aggCorr = s.aggCorr ∧ t.aggStat = s.aggStat

/-- Entry i of the four banks of `t` is that of `s`. -/
def sameLane (s t : State) (i : BlockIndex) : Prop :=
  t.resOrig[i.val] = s.resOrig[i.val] ∧ t.resPos[i.val] = s.resPos[i.val] ∧
    t.resRecv[i.val] = s.resRecv[i.val] ∧ t.resCorr[i.val] = s.resCorr[i.val]

end Sys2Proof.Claim

open Sys2Proof Sys2Proof.Machine Sys2Proof.Safety Sys2Proof.Claim

/-! ## Encoding (30_encoding.md) -/

/-- The ten example words of 30_encoding.md section 5 decode to the commands they stand for. -/
def Obligations.AssemblyExamplesDecode : Prop :=
  decode 0x0000#16 = .ok .nop ∧
  decode 0x3401#16 = .ok (.parity 0x34#7) ∧
  decode 0x0102#16 = .ok (.syndrome 0x01#7) ∧
  decode 0x0503#16 = .ok (.locate 5#3) ∧
  decode 0x0104#16 = .ok (.correct 0x01#7) ∧
  decode 0x0085#16 = .ok (.inject 0x00#8 8#4) ∧
  decode 0xAA86#16 = .ok (.process 0xAA#8 8#4) ∧
  decode 0x00F7#16 = .ok (.split 15#4) ∧
  decode 0x0008#16 = .ok .run ∧
  decode 0x0009#16 = .ok .clrerr

/-- R74, R75, R76: every command, with every operand value, is what its own word decodes to. -/
def Obligations.DecodeOfEncodeIsTheCommand : Prop := ∀ i : Instr, decode (encode i) = .ok i

/-- R75, R76: a word that decodes to a command is that command's only word, so no bit of a legal word is dropped. -/
def Obligations.EncodeOfDecodeIsTheWord : Prop := ∀ (w : CmdWord) (i : Instr), decode w = .ok i → encode i = w

/-- R74 with the columns of R75: w = zext_16(D)*256 + zext_16(P)*16 + zext_16(OPC), for each of the ten commands. -/
def Obligations.EncodedWordIsTheFieldSum : Prop :=
  encode .nop = 0#16 ∧
  (∀ w : Word7, encode (.parity w) = w.setWidth 16 * 256#16 + 1#16) ∧
  (∀ w : Word7, encode (.syndrome w) = w.setWidth 16 * 256#16 + 2#16) ∧
  (∀ e : Syndrome, encode (.locate e) = e.setWidth 16 * 256#16 + 3#16) ∧
  (∀ w : Word7, encode (.correct w) = w.setWidth 16 * 256#16 + 4#16) ∧
  (∀ (b : Block) (p : Nibble), encode (.inject b p) = b.setWidth 16 * 256#16 + p.setWidth 16 * 16#16 + 5#16) ∧
  (∀ (b : Block) (p : Nibble), encode (.process b p) = b.setWidth 16 * 256#16 + p.setWidth 16 * 16#16 + 6#16) ∧
  (∀ idx : Nibble, encode (.split idx) = idx.setWidth 16 * 16#16 + 7#16) ∧
  encode .run = 8#16 ∧
  encode .clrerr = 9#16

/-- R213: IllegalCommand is raised by any word with a reserved opcode or a reserved field bit set, in every state and
with no other effect, RUN_VALID included; and by no other word. -/
def Obligations.IllegalWordsRaiseIllegalCommand : Prop :=
  (∀ (w : CmdWord) (s : State), illegalWord w → execute w s = .next (faulted 5#4 0#4 s)) ∧
  (∀ (w : CmdWord) (s t : State), ¬ illegalWord w → execute w s = .next t → t.lastErr ≠ 5#4)

/-- R79 with R74, and R80: which operands a line may be written with; for every accepted command line the word {D, P, OPC},
with character j of a quoted operand at bit j; the lines that are refused; and the host-action lines, which assemble to
nothing. An accepted command line's word decodes to the line's command and is what the host issues. That a hexadecimal
operand must fit the operand's width, that an entry of WRITE POSVEC is 0 to 15 and that READ CMD is refused are the
model's lexical choices (log 16). -/
def Obligations.AcceptedLinesDecodeToTheirCommands : Prop :=
  -- the operands that denote an n-bit value
  (∀ (n : Nat) (cs : List Char),
    (∃ v : BitVec n, denotes (.quoted cs) v) ↔ cs.length = n ∧ ∀ c ∈ cs, c = '0' ∨ c = '1') ∧
  (∀ n k : Nat, (∃ v : BitVec n, denotes (.hex k) v) ↔ k < 2 ^ n) ∧
  -- the word of every accepted command line
  assembleWord .nop = some (word 0#8 0#4 0x0#4) ∧
  (∀ (o : AsmOperand) (v : Word7), denotes o v →
    assembleWord (.parity o) = some (word (0#1 ++ v) 0#4 0x1#4) ∧
      assembleWord (.syndrome o) = some (word (0#1 ++ v) 0#4 0x2#4) ∧
      assembleWord (.correct o) = some (word (0#1 ++ v) 0#4 0x4#4)) ∧
  (∀ e : Nat, e < 8 → assembleWord (.locate e) = some (word (BitVec.ofNat 8 e) 0#4 0x3#4)) ∧
  (∀ (o : AsmOperand) (v : Block) (p : Nat), denotes o v → p < 16 →
    assembleWord (.inject o p) = some (word v (BitVec.ofNat 4 p) 0x5#4) ∧
      assembleWord (.process o p) = some (word v (BitVec.ofNat 4 p) 0x6#4)) ∧
  (∀ idx : Nat, idx < 16 → assembleWord (.split idx) = some (word 0#8 (BitVec.ofNat 4 idx) 0x7#4)) ∧
  assembleWord .run = some (word 0#8 0#4 0x8#4) ∧
  assembleWord .clrerr = some (word 0#8 0#4 0x9#4) ∧
  -- the command lines that are refused
  (∀ o : AsmOperand, (∀ v : Word7, ¬ denotes o v) →
    assembleWord (.parity o) = none ∧ assembleWord (.syndrome o) = none ∧ assembleWord (.correct o) = none) ∧
  (∀ e : Nat, 8 ≤ e → assembleWord (.locate e) = none) ∧
  (∀ (o : AsmOperand) (p : Nat), (16 ≤ p ∨ ∀ v : Block, ¬ denotes o v) →
    assembleWord (.inject o p) = none ∧ assembleWord (.process o p) = none) ∧
  (∀ idx : Nat, 16 ≤ idx → assembleWord (.split idx) = none) ∧
  -- the host issues the word of an accepted line, and it decodes to the line's command; a refused line does nothing
  (∀ (l : AsmLine) (w : CmdWord), assembleWord l = some w →
    l.wellFormed = true ∧ lineAction l = some (.write .cmd 16 w) ∧ ∃ i, lineInstr l = some i ∧ decode w = .ok i) ∧
  (∀ l : AsmLine, l.wellFormed = false → assembleWord l = none ∧ lineAction l = none) ∧
  -- the host-action lines
  (∀ o : AsmOperand, assembleWord (.writePayload o) = none ∧
    (∀ x : Payload, denotes o x → lineAction (.writePayload o) = some (.write .payload 128 x)) ∧
    ((∀ x : Payload, ¬ denotes o x) → lineAction (.writePayload o) = none)) ∧
  (∀ ps : List Nat, assembleWord (.writePosvec ps) = none ∧
    (ps.length = 16 → (∀ p ∈ ps, p < 16) →
      ∃ q : PosVec, lineAction (.writePosvec ps) = some (.write .posvec 64 q) ∧
        ∀ i : BlockIndex, ps[i.val]? = some (posField q i).toNat) ∧
    ((ps.length ≠ 16 ∨ ∃ p ∈ ps, 16 ≤ p) → lineAction (.writePosvec ps) = none)) ∧
  (∀ r : Reg, assembleWord (.read r) = none ∧
    lineAction (.read r) = if r = .cmd then none else some (.read r r.width))

/-- R65, R67 (the host's duties, which no step assumes: log 14): an accepted input string is exactly the string of the
value written to PAYLOAD, character j being bit j. -/
def Obligations.ShellStringsKeepTheBitOrder : Prop :=
  ∀ (cs : List Char) (x : Payload), shellInput cs = .ok x →
    cs.length = 128 ∧ (∀ c ∈ cs, c = '0' ∨ c = '1') ∧ stringOf (n := 128) x = cs

/-! ## The step and the host's actions (20_memory.md) -/

/-- R58, R76: when the host's next action is a legal write of CMD and BUSY = 0, the step is exec of the decoded command.
What the step adds is the model's own: the action is taken from `pending` (log 1) and `drawEra` advances (log 3). -/
def Obligations.StepRunsTheDecodedCommand : Prop :=
  ∀ (s : State) (w : CmdWord) (rest : List HostAction) (i : Instr),
    s.pending = .write .cmd 16 w :: rest → s.busy = false → decode w = .ok i →
      step s = exec i { s with pending := rest, drawEra := s.drawEra + 1 }

/-- R58, R77: when the word decodes to no command, the step records IllegalCommand (log 1, log 3 as above). -/
def Obligations.StepRecordsAnIllegalWord : Prop :=
  ∀ (s : State) (w : CmdWord) (rest : List HostAction),
    s.pending = .write .cmd 16 w :: rest → s.busy = false → illegalWord w →
      step s = .next (faulted 5#4 0#4 { s with pending := rest, drawEra := s.drawEra + 1 })

/-- R56: host_write(PAYLOAD, v) performs PAYLOAD <- v; STATUS.PAYLOAD_V <- 1 and changes nothing else of the core. The
model's own fields are no part of the rule: the action leaves `pending` (log 1), and nothing is said of `drawEra`. -/
def Obligations.HostWriteOfPayload : Prop :=
  ∀ (s : State) (v : Payload) (rest : List HostAction),
    s.pending = .write .payload 128 v :: rest → s.busy = false →
      ∃ era : Nat, step s = .next
        { s with payload := some v, payloadV := true, pending := rest, drawEra := era }

/-- R57: host_write(POSVEC, v) performs POSVEC <- v; STATUS.POSVEC_V <- 1 and changes nothing else, for any 64-bit v.
The model's own fields as for PAYLOAD. -/
def Obligations.HostWriteOfPosvec : Prop :=
  ∀ (s : State) (v : PosVec) (rest : List HostAction),
    s.pending = .write .posvec 64 v :: rest → s.busy = false →
      ∃ era : Nat, step s = .next
        { s with posvec := some v, posvecV := true, pending := rest, drawEra := era }

/-- R54, R55: a read of a readable register changes nothing of the core and returns the value the register holds; for a
register without a value it returns the free value of the current era (log 3, log 4). -/
def Obligations.HostReadReturnsTheValueHeld : Prop :=
  (∀ (s : State) (r : Reg) (rest : List HostAction),
    s.pending = .read r r.width :: rest → r ≠ .cmd → (s.busy = false ∨ r = .status) →
      step s = .next { s with pending := rest, reply := some ⟨r, readValue { s with pending := rest } r⟩ }) ∧
  (∀ (s : State) (v : Payload), s.payload = some v → readValue s .payload = v) ∧
  (∀ (s : State) (v : PosVec), s.posvec = some v → readValue s .posvec = v) ∧
  (∀ s : State, readValue s .result = s.result) ∧
  (∀ s : State, readValue s .status = statusWord s) ∧
  (∀ (s : State) (i : BlockIndex) (v : Block), s.resOrig[i.val] = some v → readValue s (.resOrig i) = v) ∧
  (∀ (s : State) (i : BlockIndex) (v : Nibble), s.resPos[i.val] = some v → readValue s (.resPos i) = v) ∧
  (∀ (s : State) (i : BlockIndex) (v : Block), s.resRecv[i.val] = some v → readValue s (.resRecv i) = v) ∧
  (∀ (s : State) (i : BlockIndex) (v : Block), s.resCorr[i.val] = some v → readValue s (.resCorr i) = v) ∧
  (∀ (s : State) (v : BitVec 128), s.aggOrig = some v → readValue s .aggOrig = v) ∧
  (∀ (s : State) (v : BitVec 128), s.aggCorr = some v → readValue s .aggCorr = v) ∧
  (∀ (s : State) (v : BitVec 16), s.aggStat = some v → readValue s .aggStat = v) ∧
  (∀ (s : State) (r : Reg), regValue s r = none → readValue s r = Config.freeRead s.drawEra r)

/-- R55: a host_read is idempotent: of two reads of one register with no write between them, the second step leaves the
same reply, whether or not the register holds a value, and whatever other reads stand between them. -/
def Obligations.ReadsWithNoWriteBetweenAgree : Prop :=
  ∀ (r : Reg) (others : List Reg) (s : State) (rest : List HostAction),
    r ≠ .cmd → (∀ q ∈ others, q ≠ .cmd) → s.busy = false →
    s.pending = .read r r.width :: (others.map fun q => .read q q.width) ++ .read r r.width :: rest →
    ∃ t u : State,
      step s = .next t ∧ Host.Core.run core (others.length + 2) s = .next u ∧
        u.reply = t.reply ∧ u = { s with pending := rest, reply := t.reply }

/-- 10_state.md section 4, R39, R30: the bits of STATUS as the host reads it. -/
def Obligations.StatusLayout : Prop :=
  ∀ s : State,
    (statusWord s).getLsbD 0 = s.lastOk ∧
    (statusWord s).getLsbD 1 = s.runValid ∧
    (statusWord s).getLsbD 2 = s.payloadV ∧
    (statusWord s).getLsbD 3 = s.posvecV ∧
    (statusWord s).extractLsb' 4 4 = s.lastErr ∧
    (statusWord s).extractLsb' 8 4 = s.firstErr ∧
    (statusWord s).extractLsb' 12 4 = s.errBlock ∧
    (statusWord s).getLsbD 16 = s.busy ∧
    ∀ k, 17 ≤ k → (statusWord s).getLsbD k = false

/-- R31: a host_write(STATUS) is not a host action, and the model refuses it, at any width and in any state (the
refusal's name is the model's, log 8). -/
def Obligations.StatusIsReadOnly : Prop :=
  ∀ (s : State) (n : Nat) (v : BitVec n) (rest : List HostAction),
    s.pending = .write .status n v :: rest → ∃ r : Refusal, step s = .refused r

/-- R54: the model refuses every action but those listed (a write to a read-only register, a read of CMD, an access of
the wrong width), and refuses nothing else. -/
def Obligations.OnlyUnlistedActionsAreRefused : Prop :=
  ∀ (s : State) (a : HostAction) (rest : List HostAction), s.pending = a :: rest →
    ((∃ r, step s = .refused r) ↔
      ∃ (r : Reg) (n : Nat),
        (a = .read r n ∧ (r = .cmd ∨ n ≠ r.width)) ∨
        (∃ v : BitVec n, a = .write r n v ∧ ((r ≠ .payload ∧ r ≠ .posvec ∧ r ≠ .cmd) ∨ n ≠ r.width)))

/-- R240 (93_implementation_defined.md I14): while BUSY = 1 a host action of R54 other than a read of STATUS has no
move. -/
def Obligations.NoMoveWhileBusy : Prop :=
  ∀ (s : State) (a : HostAction) (rest : List HostAction), s.pending = a :: rest → s.busy = true →
    listedAction a = true → a ≠ .reset → a ≠ .read .status 32 → step s = .fault .hostActionWhileBusy

/-- R50, R54, R59: with BUSY = 0, every sequence of the host's actions is taken one after the other, one step each, and
none of the actions of R54 is ever turned away. -/
def Obligations.EveryHostSequenceIsTaken : Prop :=
  ∀ (k : Nat) (s : State), s.busy = false → (∀ a ∈ s.pending, listedAction a = true) →
    ∃ t, Host.Core.run core k s = .next t ∧ t.busy = false ∧ t.pending = s.pending.drop k

/-- R222, R232 (the model's choice of log 2): with no host action the core waits and keeps all of its state. -/
def Obligations.IdleCoreKeepsItsState : Prop := ∀ s : State, s.pending = [] → step s = .next s

/-- R230: reset puts the core in this state, whatever it held before: power-on (State.reset) and the reset action, which
leaves only the model's own fields `pending`, `reply` and `drawEra` to the host (log 10). -/
def Obligations.ResetLeavesTheResetState : Prop :=
  (State.reset.payload = none ∧ State.reset.posvec = none ∧ State.reset.result = 0x0000#16 ∧
    statusWord State.reset = 0x00000000#32 ∧ State.reset.lastOk = false ∧ State.reset.runValid = false ∧
    State.reset.payloadV = false ∧ State.reset.posvecV = false ∧ State.reset.lastErr = 0#4 ∧
    State.reset.firstErr = 0#4 ∧ State.reset.errBlock = 0#4 ∧ State.reset.busy = false ∧
    (∀ i : BlockIndex, State.reset.resOrig[i.val] = none ∧ State.reset.resPos[i.val] = none ∧
      State.reset.resRecv[i.val] = none ∧ State.reset.resCorr[i.val] = none) ∧
    State.reset.aggOrig = none ∧ State.reset.aggCorr = none ∧ State.reset.aggStat = none) ∧
  (∀ (s : State) (rest : List HostAction), s.pending = .reset :: rest →
    ∃ t, step s = .next t ∧
      t = { State.reset with pending := t.pending, reply := t.reply, drawEra := t.drawEra } ∧ t.pending = rest)

/-! ## The units (41_splitter.md to 46_aggregator_run.md) -/

/-- R100: concatenating the 16 blocks in order gives the payload back, and element k of block i is element 8i+k. -/
def Obligations.BlocksConcatenateToThePayload : Prop :=
  ∀ x : Payload,
    split x 15 ++ split x 14 ++ split x 13 ++ split x 12 ++ split x 11 ++ split x 10 ++ split x 9 ++ split x 8 ++
      split x 7 ++ split x 6 ++ split x 5 ++ split x 4 ++ split x 3 ++ split x 2 ++ split x 1 ++ split x 0 = x ∧
    ∀ i k : Nat, i < 16 → k < 8 → (split x i).getLsbD k = x.getLsbD (8 * i + k)

/-- R112: the syndrome is s1 + 2*s2 + 4*s3 with the source's XOR groups, and at most 7. -/
def Obligations.SyndromeIsTheWeightedSum : Prop :=
  ∀ w : Word7,
    let s1 := w.getLsbD 0 ^^ w.getLsbD 2 ^^ w.getLsbD 4 ^^ w.getLsbD 6
    let s2 := w.getLsbD 1 ^^ w.getLsbD 2 ^^ w.getLsbD 5 ^^ w.getLsbD 6
    let s3 := w.getLsbD 3 ^^ w.getLsbD 4 ^^ w.getLsbD 5 ^^ w.getLsbD 6
    (syndrome7 w).toNat = s1.toNat + 2 * s2.toNat + 4 * s3.toNat ∧
    syndrome7 w = BitVec.ofBool s3 ++ BitVec.ofBool s2 ++ BitVec.ofBool s1 ∧
    (syndrome7 w).toNat ≤ 7

/-- R113: the lookup table of the locator, and the corrector's use of it. -/
def Obligations.LocatorLookup : Prop :=
  locate 0#3 = 0x00#7 ∧ locate 1#3 = 0x01#7 ∧ locate 2#3 = 0x02#7 ∧ locate 3#3 = 0x04#7 ∧ locate 4#3 = 0x08#7 ∧
  locate 5#3 = 0x10#7 ∧ locate 6#3 = 0x20#7 ∧ locate 7#3 = 0x40#7 ∧
  (∀ (e : Syndrome) (k : Nat), (locate e).getLsbD k = decide (e ≠ 0#3 ∧ k = e.toNat - 1)) ∧
  (∀ w : Word7, correct7 w = w ^^^ locate (syndrome7 w))

/-- R117: the syndrome equals stored parity XOR recomputed parity. -/
def Obligations.SyndromeIsStoredXorRecomputedParity : Prop :=
  ∀ w : Word7,
    (syndrome7 w).getLsbD 0 = (w.getLsbD 0 ^^ (parity7 w).getLsbD 0) ∧
    (syndrome7 w).getLsbD 1 = (w.getLsbD 1 ^^ (parity7 w).getLsbD 1) ∧
    (syndrome7 w).getLsbD 2 = (w.getLsbD 3 ^^ (parity7 w).getLsbD 2)

/-- R118: for every W and every p in 1 to 7, syndrome7(W ^ onehot7(p)) = syndrome7(W) ^ p. -/
def Obligations.SyndromeIsLinear : Prop :=
  (∀ (w : Word7) (p : BitVec 3), p ≠ 0#3 → syndrome7 (w ^^^ onehot7 p.toNat) = syndrome7 w ^^^ p) ∧
  (∀ p : BitVec 3, p ≠ 0#3 → syndrome7 (onehot7 p.toNat) = p)

/-- R119: the 16 codewords; every word is a codeword or one flip away from exactly one; a word whose positions 1, 2 and 4
hold the parity of its data bits is a codeword. -/
def Obligations.TheSixteenCodewords : Prop :=
  (∀ w : Word7, syndrome7 w = 0#3 ↔
    w ∈ [0x00#7, 0x07#7, 0x19#7, 0x1E#7, 0x2A#7, 0x2D#7, 0x33#7, 0x34#7, 0x4B#7, 0x4C#7, 0x52#7, 0x55#7, 0x61#7,
      0x66#7, 0x78#7, 0x7F#7]) ∧
  (∀ w : Word7, ∃ c : Word7, (syndrome7 c = 0#3 ∧ popcount (w ^^^ c) ≤ 1) ∧
    ∀ c' : Word7, syndrome7 c' = 0#3 → popcount (w ^^^ c') ≤ 1 → c' = c) ∧
  (∀ w : Word7, w.getLsbD 0 = (parity7 w).getLsbD 0 → w.getLsbD 1 = (parity7 w).getLsbD 1 →
    w.getLsbD 3 = (parity7 w).getLsbD 2 → syndrome7 w = 0#3)

/-- R120: for a codeword C and p in 1 to 7, the syndrome of C ^ onehot7(p) is p; and the syndrome is 0 exactly for
codewords, so a word that is none has a non-zero one with no error injected. -/
def Obligations.SyndromeGuarantee : Prop :=
  ∀ (c : Word7) (p : BitVec 3), Codeword c → p ≠ 0#3 →
    syndrome7 (c ^^^ onehot7 p.toNat) = p ∧ ¬ Codeword (c ^^^ onehot7 p.toNat)

/-- R131, R133: the injector flips exactly the bit at position p, twice is the identity, and its 7-bit use. -/
def Obligations.InjectorFlipsOneBit : Prop :=
  (∀ (b : Block) (p : Nibble), 1 ≤ p.toNat → p.toNat ≤ 8 →
    popcount (inject8 b p ^^^ b) = 1 ∧ (inject8 b p ^^^ b).getLsbD (p.toNat - 1) = true ∧
      inject8 (inject8 b p) p = b) ∧
  (∀ (w : Word7) (p : Nibble), 1 ≤ p.toNat → p.toNat ≤ 7 →
    inject7 w p.toNat = w ^^^ onehot7 p.toNat ∧
      inject7 w p.toNat = (inject8 (w.setWidth 8) p).extractLsb' 0 7)

/-- R141 (a) to (e): the laws of the corrector. -/
def Obligations.CorrectorLaws : Prop :=
  (∀ x : Word7, syndrome7 (correct7 x) = 0#3) ∧
  (∀ x : Word7, syndrome7 x = 0#3 → correct7 x = x) ∧
  (∀ x : Word7, popcount (correct7 x ^^^ x) ≤ 1) ∧
  (∀ (c : Word7) (p : BitVec 3), syndrome7 c = 0#3 → p ≠ 0#3 → correct7 (inject7 c p.toNat) = c) ∧
  (∀ (w : Word7) (p : BitVec 3), p ≠ 0#3 →
    correct7 (inject7 w p.toNat) = w ^^^ onehot7 p.toNat ^^^ onehot7 (syndrome7 w ^^^ p).toNat ∧
      (correct7 (inject7 w p.toNat) = w ↔ syndrome7 w = 0#3))

/-- R151 (a) to (d): the laws of the block processor, for every block and every p in 1 to 8. -/
def Obligations.BlockProcessorLaws : Prop :=
  ∀ (b : Block) (p : Nibble), 1 ≤ p.toNat → p.toNat ≤ 8 →
    let w : Word7 := b.extractLsb' 0 7
    let c := corrected8 b p
    c.getLsbD 7 = b.getLsbD 7 ∧
    (syndrome7 w = 0#3 → c = b) ∧
    (syndrome7 w ≠ 0#3 →
      c ≠ b ∧
      (p = 8#4 → c ^^^ b = 1#8 <<< ((syndrome7 w).toNat - 1)) ∧
      (p ≠ 8#4 → p.toNat = (syndrome7 w).toNat → c ^^^ b = 1#8 <<< (p.toNat - 1)) ∧
      (p ≠ 8#4 → p.toNat ≠ (syndrome7 w).toNat →
        c ^^^ b = 1#8 <<< (p.toNat - 1) ||| 1#8 <<< ((syndrome7 w ^^^ p.setWidth 3).toNat - 1) ∧
          agreeing c b = 6)) ∧
    6 ≤ agreeing c b ∧ syndrome7 (c.extractLsb' 0 7) = 0#3

/-- R160: the two concatenations in block order, their equality, and the count of the bit positions 0 to 127 where they
agree. -/
def Obligations.AggregatorConcatenatesAndCounts : Prop :=
  (∀ (res : BlockIndex → BlockResult) (i : BlockIndex) (k : Nat), k < 8 →
    (aggregateOrig res).getLsbD (8 * i.val + k) = (res i).original.getLsbD k ∧
      (aggregateCorr res).getLsbD (8 * i.val + k) = (res i).corrected.getLsbD k) ∧
  (∀ o c : BitVec 128,
    (aggregateEq o c = true ↔ ∀ j : Nat, j < 128 → o.getLsbD j = c.getLsbD j) ∧
      aggregateMatch o c = (List.range 128).countP (fun j => o.getLsbD j == c.getLsbD j) ∧
      aggregateMatch o c ≤ 128)

/-- R161: AGG_STAT holds MATCH in bits 7:0 without wrapping and EQ in bit 8; EQ = 1 exactly when MATCH = 128; for the
results of process8 at legal positions MATCH is at least 96, and 128 exactly when positions 1 to 7 of every block are a
codeword. -/
def Obligations.MatchCountArithmetic : Prop :=
  (∀ o c : BitVec 128,
    ((aggStatWord (aggregateEq o c) (aggregateMatch o c)).extractLsb' 0 8).toNat = aggregateMatch o c ∧
      (aggStatWord (aggregateEq o c) (aggregateMatch o c)).getLsbD 8 = aggregateEq o c ∧
      (∀ k, 9 ≤ k → (aggStatWord (aggregateEq o c) (aggregateMatch o c)).getLsbD k = false) ∧
      (aggregateEq o c = true ↔ aggregateMatch o c = 128)) ∧
  (∀ (x : Payload) (q : PosVec), PositionsLegal q →
    96 ≤ aggregateMatch (aggregateOrig (lane x q)) (aggregateCorr (lane x q)) ∧
      (aggregateMatch (aggregateOrig (lane x q)) (aggregateCorr (lane x q)) = 128 ↔
        ∀ i : BlockIndex, Codeword ((split x i).extractLsb' 0 7)))

/-! ## The commands: effect, frame, faults, corner cases and worked example of each rule -/

/-- R180: NOP changes only the completion fields; a word with OPC 0 and any of bits 15:4 set is an IllegalCommand; after
a faulting INJECT it clears LAST_ERR and keeps FIRST_ERR. -/
def Obligations.NopCommand : Prop :=
  (∀ s : State, exec .nop s = .next (completed s)) ∧
  (∀ s : State, execute 0x0000#16 s = .next (completed s)) ∧
  (∀ (d : BitVec 8) (p : BitVec 4) (s : State), (p ≠ 0#4 ∨ d ≠ 0#8) →
    execute (word d p 0x0#4) s = .next (faulted 5#4 0#4 s)) ∧
  (∀ s : State, s.lastOk = false → s.lastErr = 3#4 → s.firstErr = 3#4 →
    ∃ t, execute 0x0000#16 s = .next t ∧ t.lastOk = true ∧ t.lastErr = 0#4 ∧ t.firstErr = 3#4)

/-- R114: PARITY writes RESULT = {p4, p2, p1}; W[0], W[1] and W[3] do not matter; IllegalCommand when P is not 0 or D[7]
is 1. -/
def Obligations.ParityCommand : Prop :=
  (∀ (w : Word7) (s : State),
    let p1 := w.getLsbD 2 ^^ w.getLsbD 4 ^^ w.getLsbD 6
    let p2 := w.getLsbD 2 ^^ w.getLsbD 5 ^^ w.getLsbD 6
    let p4 := w.getLsbD 4 ^^ w.getLsbD 5 ^^ w.getLsbD 6
    exec (.parity w) s =
      .next (completedWith ((BitVec.ofBool p4 ++ BitVec.ofBool p2 ++ BitVec.ofBool p1).setWidth 16) s)) ∧
  (∀ (w : Word7) (s : State), execute (word (0#1 ++ w) 0#4 0x1#4) s = exec (.parity w) s) ∧
  (∀ (d : BitVec 8) (p : BitVec 4) (s : State), (p ≠ 0#4 ∨ d.getLsbD 7 = true) →
    execute (word d p 0x1#4) s = .next (faulted 5#4 0#4 s)) ∧
  (∀ (w w' : Word7) (s : State), w &&& 0x74#7 = w' &&& 0x74#7 → exec (.parity w) s = exec (.parity w') s) ∧
  (∀ s : State, execute 0x4001#16 s = .next (completedWith 0x0007#16 s))

/-- R115: SYNDROME writes RESULT = the syndrome; 0 exactly for codewords, 7 for every word one flip at position 7 away
from a codeword; IllegalCommand when P is not 0 or D[7] is 1. -/
def Obligations.SyndromeCommand : Prop :=
  (∀ (w : Word7) (s : State),
    let s1 := w.getLsbD 0 ^^ w.getLsbD 2 ^^ w.getLsbD 4 ^^ w.getLsbD 6
    let s2 := w.getLsbD 1 ^^ w.getLsbD 2 ^^ w.getLsbD 5 ^^ w.getLsbD 6
    let s3 := w.getLsbD 3 ^^ w.getLsbD 4 ^^ w.getLsbD 5 ^^ w.getLsbD 6
    exec (.syndrome w) s =
      .next (completedWith ((BitVec.ofBool s3 ++ BitVec.ofBool s2 ++ BitVec.ofBool s1).setWidth 16) s)) ∧
  (∀ (w : Word7) (s : State), execute (word (0#1 ++ w) 0#4 0x2#4) s = exec (.syndrome w) s) ∧
  (∀ (d : BitVec 8) (p : BitVec 4) (s : State), (p ≠ 0#4 ∨ d.getLsbD 7 = true) →
    execute (word d p 0x2#4) s = .next (faulted 5#4 0#4 s)) ∧
  (∀ (w : Word7) (s : State), exec (.syndrome w) s = .next (completedWith 0x0000#16 s) ↔
    w ∈ [0x00#7, 0x07#7, 0x19#7, 0x1E#7, 0x2A#7, 0x2D#7, 0x33#7, 0x34#7, 0x4B#7, 0x4C#7, 0x52#7, 0x55#7, 0x61#7,
      0x66#7, 0x78#7, 0x7F#7]) ∧
  (∀ (c : Word7) (s : State), Codeword c →
    exec (.syndrome (c ^^^ 0x40#7)) s = .next (completedWith 0x0007#16 s)) ∧
  (∀ s : State, execute 0x0102#16 s = .next (completedWith 0x0001#16 s))

/-- R116: LOCATE writes RESULT = the flip mask, only bit S-1 set and none for S = 0; IllegalCommand when P is not 0 or
D[7:3] is not 0. -/
def Obligations.LocateCommand : Prop :=
  (∀ (e : Syndrome) (s : State),
    exec (.locate e) s = .next (completedWith (if e = 0#3 then 0#16 else 1#16 <<< (e.toNat - 1)) s)) ∧
  (∀ (e : Syndrome) (s : State), execute (word (0#5 ++ e) 0#4 0x3#4) s = exec (.locate e) s) ∧
  (∀ (d : BitVec 8) (p : BitVec 4) (s : State), (p ≠ 0#4 ∨ 8 ≤ d.toNat) →
    execute (word d p 0x3#4) s = .next (faulted 5#4 0#4 s)) ∧
  (∀ s : State, execute 0x0503#16 s = .next (completedWith 0x0010#16 s))

/-- R142: CORRECT writes RESULT[6:0] = the word with the bit its syndrome names flipped, RESULT[10:8] = the syndrome, the
other bits 0; a codeword is unchanged with syndrome 0 and any other word has exactly one bit flipped; IllegalCommand when
P is not 0 or D[7] is 1. -/
def Obligations.CorrectCommand : Prop :=
  (∀ (w : Word7) (s : State), ∃ v : BitVec 16,
    exec (.correct w) s = .next (completedWith v s) ∧
    v = (syndrome7 w).setWidth 16 * 256#16 + (correct7 w).setWidth 16 ∧
    v.extractLsb' 0 7 = (if syndrome7 w = 0#3 then w else w ^^^ (1#7 <<< ((syndrome7 w).toNat - 1))) ∧
    v.getLsbD 7 = false ∧ v.extractLsb' 8 3 = syndrome7 w ∧ v.extractLsb' 11 5 = 0#5 ∧
    (Codeword w → v = w.setWidth 16) ∧ (¬ Codeword w → popcount (v.extractLsb' 0 7 ^^^ w) = 1)) ∧
  (∀ (w : Word7) (s : State), execute (word (0#1 ++ w) 0#4 0x4#4) s = exec (.correct w) s) ∧
  (∀ (d : BitVec 8) (p : BitVec 4) (s : State), (p ≠ 0#4 ∨ d.getLsbD 7 = true) →
    execute (word d p 0x4#4) s = .next (faulted 5#4 0#4 s)) ∧
  (∀ s : State, execute 0x0104#16 s = .next (completedWith 0x0100#16 s))

/-- R132: INJECT writes RESULT = the block with bit p-1 flipped for p in 1 to 8, and raises InvalidErrorPosition with
ERR_BLOCK 0 for p 0 or 9 to 15; every word with OPC 5 is legal. -/
def Obligations.InjectCommand : Prop :=
  (∀ (b : Block) (p : Nibble) (s : State), 1 ≤ p.toNat → p.toNat ≤ 8 →
    exec (.inject b p) s = .next (completedWith ((b ^^^ (1#8 <<< (p.toNat - 1))).setWidth 16) s)) ∧
  (∀ (b : Block) (p : Nibble) (s : State), (p.toNat < 1 ∨ 8 < p.toNat) →
    exec (.inject b p) s = .next (faulted 3#4 0#4 s)) ∧
  (∀ (b : Block) (p : Nibble) (s : State), execute (word b p 0x5#4) s = exec (.inject b p) s) ∧
  (∀ s : State, execute 0x0085#16 s = .next (completedWith 0x0080#16 s))

/-- R152 (with process8 of R150): PROCESS writes RESULT[7:0] = received and RESULT[15:8] = corrected for p in 1 to 8: received is the block
with bit p-1 flipped, corrected[6:0] the corrector's word of received[6:0], corrected[7] received[7] inverted when p = 8
and as it is otherwise; InvalidErrorPosition with ERR_BLOCK 0 for other p; every word with OPC 6 is legal. -/
def Obligations.ProcessCommand : Prop :=
  (∀ (b : Block) (p : Nibble) (s : State), 1 ≤ p.toNat → p.toNat ≤ 8 →
    ∃ received corrected : Block,
      exec (.process b p) s = .next (completedWith (corrected.setWidth 16 * 256#16 + received.setWidth 16) s) ∧
      received = b ^^^ (1#8 <<< (p.toNat - 1)) ∧
      corrected.extractLsb' 0 7 = correct7 (received.extractLsb' 0 7) ∧
      corrected.getLsbD 7 = (if p = 8#4 then !received.getLsbD 7 else received.getLsbD 7)) ∧
  (∀ (b : Block) (p : Nibble) (s : State), (p.toNat < 1 ∨ 8 < p.toNat) →
    exec (.process b p) s = .next (faulted 3#4 0#4 s)) ∧
  (∀ (b : Block) (p : Nibble) (s : State), execute (word b p 0x6#4) s = exec (.process b p) s) ∧
  (∀ s : State, execute 0xAA86#16 s = .next (completedWith 0xAA2A#16 s))

/-- R101: SPLIT writes RESULT = block I of PAYLOAD when PAYLOAD_V = 1, for every I in 0 to 15, and raises MissingInput
when PAYLOAD_V = 0; IllegalCommand when D is not 0; never InvalidErrorPosition. -/
def Obligations.SplitCommand : Prop :=
  (∀ (idx : Nibble) (x : Payload) (s : State), s.payloadV = true → s.payload = some x →
    exec (.split idx) s = .next (completedWith ((x.extractLsb' (8 * idx.toNat) 8).setWidth 16) s)) ∧
  (∀ (idx : Nibble) (s : State), s.payloadV = false → exec (.split idx) s = .next (faulted 1#4 0#4 s)) ∧
  (∀ (idx : Nibble) (s : State), execute (word 0#8 idx 0x7#4) s = exec (.split idx) s) ∧
  (∀ (d : BitVec 8) (idx : Nibble) (s : State), d ≠ 0#8 →
    execute (word d idx 0x7#4) s = .next (faulted 5#4 0#4 s)) ∧
  (∀ (idx : Nibble) (s t : State), exec (.split idx) s = .next t → t.lastErr ≠ 3#4) ∧
  (∀ s : State, s.payloadV = true → s.payload = some 0x01000000000000000000000000000000#128 →
    execute 0x00F7#16 s = .next (completedWith 0x0001#16 s))

/-- R165: RUN's checks in their order, each fault clearing RUN_VALID and writing nothing else but STATUS; and, with both
inputs written and all positions in 1 to 8, all entries of all banks and the AGG registers written from the payload and
the positions read, RUN_VALID and the completion fields set, everything else unchanged; IllegalCommand when P or D is not
0; scenario 1. -/
def Obligations.RunCommand : Prop :=
  (∀ s : State, s.payloadV = false → exec .run s = .next (runFaulted 1#4 0#4 s)) ∧
  (∀ (x : Payload) (s : State), s.payloadV = true → s.payload = some x → s.posvecV = false →
    exec .run s = .next (runFaulted 4#4 0#4 s)) ∧
  (∀ (x : Payload) (q : PosVec) (i : BlockIndex) (s : State), s.payloadV = true → s.payload = some x →
    s.posvecV = true → s.posvec = some q →
    ((posField q i).toNat < 1 ∨ 8 < (posField q i).toNat) →
    (∀ j : BlockIndex, j < i → 1 ≤ (posField q j).toNat ∧ (posField q j).toNat ≤ 8) →
    exec .run s = .next (runFaulted 3#4 (BitVec.ofNat 4 i.val) s)) ∧
  (∀ (x : Payload) (q : PosVec) (s : State), s.payloadV = true → s.payload = some x → s.posvecV = true →
    s.posvec = some q → PositionsLegal q →
    ∃ t : State, exec .run s = .next t ∧ BanksHold x q t ∧ t.runValid = true ∧ t.lastOk = true ∧ t.lastErr = 0#4 ∧
      t.errBlock = 0#4 ∧ t.busy = false ∧ t.payload = some x ∧ t.posvec = some q ∧ t.result = s.result ∧
      t.payloadV = true ∧ t.posvecV = true ∧ t.firstErr = s.firstErr ∧ t.pending = s.pending ∧ t.reply = s.reply ∧
      t.drawEra = s.drawEra) ∧
  (∀ s : State, execute 0x0008#16 s = exec .run s) ∧
  (∀ (d : BitVec 8) (p : BitVec 4) (s : State), (p ≠ 0#4 ∨ d ≠ 0#8) →
    execute (word d p 0x8#4) s = .next (faulted 5#4 0#4 s)) ∧
  (∀ s : State, s.payloadV = true → s.payload = some 0#128 → s.posvecV = true →
    s.posvec = some 0x8765432187654321#64 →
    ∃ t, execute 0x0008#16 s = .next t ∧ t.aggCorr = some 0#128 ∧ t.aggStat = some 0x0180#16)

/-- R181: CLRERR clears FIRST_ERR and completes; one that is illegally encoded does not clear it, and records 5 there if
it was 0; from STATUS 0x330 it gives STATUS 0x001. -/
def Obligations.ClrerrCommand : Prop :=
  (∀ s : State, exec .clrerr s = .next (completed { s with firstErr := 0#4 })) ∧
  (∀ s : State, execute 0x0009#16 s = .next (completed { s with firstErr := 0#4 })) ∧
  (∀ (d : BitVec 8) (p : BitVec 4) (s : State), (p ≠ 0#4 ∨ d ≠ 0#8) →
    execute (word d p 0x9#4) s = .next (faulted 5#4 0#4 s)) ∧
  (∀ s : State, statusWord s = 0x00000330#32 → ∃ t, execute 0x0009#16 s = .next t ∧ statusWord t = 0x00000001#32)

/-! ## The whole machine -/

/-- R230 with 10_state.md R39: the invariant holds at reset. -/
def Obligations.InvariantHoldsAtReset : Prop := CoreInvariant State.reset

/-- R26, R27, R29, R34, R35, R39, R50, R200, R201, R202: every step keeps the invariant: the valid bits say which inputs
hold a value, the STATUS fields agree and hold only codes the core may record, BUSY is 0, and the banks and AGG registers
are empty or hold, whole, the results of one RUN over legal positions. -/
def Obligations.EveryStepKeepsTheInvariant : Prop := ∀ s t : State, CoreInvariant s → step s = .next t → CoreInvariant t

/-- R50, R76: every one of the 65,536 command words is one step to a next state, from every state. -/
def Obligations.EveryCommandWordIsOneStep : Prop := ∀ (w : CmdWord) (s : State), ∃ t, execute w s = .next t

/-- R202, R203: a command that ends with LAST_OK = 0 has written only the STATUS fields of its fault, and RUN_VALID only
if it was the legally encoded RUN raising code 1, 3 or 4. -/
def Obligations.FaultWritesOnlyStatus : Prop :=
  ∀ (w : CmdWord) (s t : State), execute w s = .next t → t.lastOk = false →
    ∃ code blk : BitVec 4,
      (w ≠ runWord ∧ (code = 1#4 ∨ code = 3#4 ∨ code = 5#4) ∧ blk = 0#4 ∧ t = faulted code blk s) ∨
      (w = runWord ∧ (code = 1#4 ∨ code = 3#4 ∨ code = 4#4) ∧ (code ≠ 3#4 → blk = 0#4) ∧ t = runFaulted code blk s)

/-- R201, R26, R217: a command that ends with LAST_OK = 1 has LAST_ERR, ERR_BLOCK and BUSY 0; Complete writes no other
STATUS field, and only RUN and CLRERR write RUN_VALID and FIRST_ERR; a command ends with LAST_OK = 1 exactly when its
LAST_ERR is 0. -/
def Obligations.CompletionFields : Prop :=
  ∀ (i : Instr) (s t : State), exec i s = .next t →
    (t.lastOk = true ↔ t.lastErr = 0#4) ∧ t.busy = false ∧
    (t.lastOk = true →
      t.errBlock = 0#4 ∧ t.payloadV = s.payloadV ∧ t.posvecV = s.posvecV ∧
        (i ≠ .clrerr → t.firstErr = s.firstErr) ∧ (i ≠ .run → t.runValid = s.runValid))

/-- R62: no command writes PAYLOAD or POSVEC, nor their valid bits, nor anything of the host's side. -/
def Obligations.CommandsNeverWriteTheInputs : Prop :=
  ∀ (w : CmdWord) (s t : State), execute w s = .next t →
    t.payload = s.payload ∧ t.posvec = s.posvec ∧ t.payloadV = s.payloadV ∧ t.posvecV = s.posvecV ∧
      t.pending = s.pending ∧ t.reply = s.reply ∧ t.drawEra = s.drawEra

/-- R33: only a unit command that completes writes RESULT, and it writes all 16 bits: none of the old RESULT is left, and
the bits it does not define are 0; RUN, NOP, CLRERR and every faulting command leave it, as does every step that issues
no command and is no reset; 0x0000 after reset. -/
def Obligations.OnlyCompletedUnitCommandsWriteResult : Prop :=
  (∀ (i : Instr) (s t : State), exec i s = .next t → (unitCommand i = false ∨ t.lastOk = false) →
    t.result = s.result) ∧
  (∀ (i : Instr) (v : BitVec 16) (s t u : State), unitCommand i = true → exec i s = .next t → t.lastOk = true →
    exec i { s with result := v } = .next u → u.result = t.result) ∧
  (∀ (i : Instr) (s t : State), unitCommand i = true → exec i s = .next t → t.lastOk = true →
    ∀ k : Nat, (resultBits i).getLsbD k = false → t.result.getLsbD k = false) ∧
  (∀ (w : CmdWord) (r : Reject) (s t : State), decode w = .error r → execute w s = .next t → t.result = s.result) ∧
  (∀ s t : State, step s = .next t → s.pending.head? ≠ some .reset →
    (∀ w, s.pending.head? ≠ some (.write .cmd 16 w)) → t.result = s.result) ∧
  State.reset.result = 0x0000#16

/-- R27, R34, R35: a step that is neither the legally encoded RUN nor a reset leaves RUN_VALID, the banks and the AGG
registers as they were, host writes of PAYLOAD and POSVEC included. -/
def Obligations.OnlyRunWritesTheBanks : Prop :=
  ∀ s t : State, step s = .next t → s.pending.head? ≠ some .reset →
    s.pending.head? ≠ some (.write .cmd 16 runWord) → sameBanks s t ∧ t.runValid = s.runValid

/-- R28: PAYLOAD_V and POSVEC_V are 0 at reset, every host write of the register sets its bit, and no step but a reset
clears one, nor any step but that write sets it. -/
def Obligations.ValidBitsRecordTheHostWrites : Prop :=
  (State.reset.payloadV = false ∧ State.reset.posvecV = false) ∧
  (∀ (s t : State) (v : Payload), s.pending.head? = some (.write .payload 128 v) → step s = .next t →
    t.payloadV = true) ∧
  (∀ (s t : State) (v : PosVec), s.pending.head? = some (.write .posvec 64 v) → step s = .next t →
    t.posvecV = true) ∧
  (∀ s t : State, step s = .next t → s.payloadV = true → t.payloadV = false → s.pending.head? = some .reset) ∧
  (∀ s t : State, step s = .next t → s.posvecV = true → t.posvecV = false → s.pending.head? = some .reset) ∧
  (∀ s t : State, step s = .next t → s.payloadV = false → t.payloadV = true →
    ∃ v, s.pending.head? = some (.write .payload 128 v)) ∧
  (∀ s t : State, step s = .next t → s.posvecV = false → t.posvecV = true →
    ∃ v, s.pending.head? = some (.write .posvec 64 v))

/-- R206: FIRST_ERR returns to 0 only by CLRERR or reset; LAST_OK and LAST_ERR are rewritten by every command, whatever
they held; RUN_VALID returns to 1 only by a RUN that completes. -/
def Obligations.RecoveryIsOnlyAsStated : Prop :=
  (∀ s t : State, step s = .next t → s.firstErr ≠ 0#4 → t.firstErr = 0#4 →
    s.pending.head? = some .reset ∨ s.pending.head? = some (.write .cmd 16 clrerrWord)) ∧
  (∀ (w : CmdWord) (ok : Bool) (err : BitVec 4) (s t u : State), execute w s = .next t →
    execute w { s with lastOk := ok, lastErr := err } = .next u → u.lastOk = t.lastOk ∧ u.lastErr = t.lastErr) ∧
  (∀ s t : State, step s = .next t → s.runValid = false → t.runValid = true →
    s.pending.head? = some (.write .cmd 16 runWord) ∧ t.lastOk = true)

/-- R205: a fault in a later command overwrites LAST_ERR and ERR_BLOCK but not a non-zero FIRST_ERR, and records its code
in a FIRST_ERR that is 0. -/
def Obligations.FirstErrKeepsTheFirstFault : Prop :=
  ∀ (w : CmdWord) (s t : State), execute w s = .next t → t.lastOk = false →
    (s.firstErr ≠ 0#4 → t.firstErr = s.firstErr) ∧ (s.firstErr = 0#4 → t.firstErr = t.lastErr) ∧ t.lastErr ≠ 0#4

/-- R207: a command reports the first fault in the order IllegalCommand (any word, in any state), MissingInput (RUN,
SPLIT), MissingPositions (RUN), InvalidErrorPosition (RUN at the lowest illegal block, whatever later positions hold;
INJECT and PROCESS for p). -/
def Obligations.FaultPriority : Prop :=
  (∀ (w : CmdWord) (s t : State), illegalWord w → execute w s = .next t → t.lastErr = 5#4) ∧
  (∀ s t : State, s.payloadV = false → execute runWord s = .next t → t.lastErr = 1#4) ∧
  (∀ (idx : Nibble) (s t : State), s.payloadV = false → execute (word 0#8 idx 0x7#4) s = .next t →
    t.lastErr = 1#4) ∧
  (∀ (s t : State) (x : Payload), s.payloadV = true → s.payload = some x → s.posvecV = false →
    execute runWord s = .next t → t.lastErr = 4#4) ∧
  (∀ (s t : State) (x : Payload) (q : PosVec), s.payloadV = true → s.payload = some x → s.posvecV = true →
    s.posvec = some q → ¬ PositionsLegal q → execute runWord s = .next t →
    t.lastErr = 3#4 ∧
      ((posField q t.errBlock.toNat).toNat < 1 ∨ 8 < (posField q t.errBlock.toNat).toNat) ∧
      ∀ j : Nat, j < t.errBlock.toNat → 1 ≤ (posField q j).toNat ∧ (posField q j).toNat ≤ 8) ∧
  (∀ (b : Block) (p : Nibble) (s t : State), (p.toNat < 1 ∨ 8 < p.toNat) →
    (execute (word b p 0x5#4) s = .next t ∨ execute (word b p 0x6#4) s = .next t) →
    t.lastErr = 3#4 ∧ t.errBlock = 0#4)

/-- R166: two RUNs with no host write between them, whatever other commands stand between, write the same values, and
neither the second RUN nor any of the commands writes PAYLOAD or POSVEC. -/
def Obligations.RunsWithNoHostWriteBetweenAgree : Prop :=
  ∀ (ws : List CmdWord) (s t u v : State), execute runWord s = .next t → runCommands ws t = some u →
    execute runWord u = .next v → t.lastOk = true →
      sameBanks t v ∧ v.lastOk = true ∧ v.runValid = true ∧ v.payload = s.payload ∧ v.posvec = s.posvec

/-- R162: lane i of a RUN depends on block i of the payload and POS_i alone: two completed RUNs whose inputs agree there
write the same entry i of every bank. -/
def Obligations.LanesAreIndependent : Prop :=
  ∀ (i : BlockIndex) (x x' : Payload) (q q' : PosVec) (s s' t t' : State),
    s.payload = some x → s'.payload = some x' → s.posvec = some q → s'.posvec = some q' →
    split x i = split x' i → posField q i = posField q' i →
    exec .run s = .next t → exec .run s' = .next t' → t.lastOk = true → t'.lastOk = true → sameLane t t' i

/-- R165 with R101 and R152 (program P2 of 95_test_vectors.md): for every block, a completed RUN's banks hold what the
unit commands give: SPLIT i completes with RES_ORIG[i], and PROCESS of that block at POS_i completes with
RES_CORR[i]*256 + RES_RECV[i]. -/
def Obligations.RunAgreesWithTheUnitCommands : Prop :=
  ∀ (s t : State) (q : PosVec) (i : BlockIndex), s.posvec = some q → exec .run s = .next t → t.lastOk = true →
    ∃ (b r c : Block) (p : Nibble) (u v : State),
      t.resOrig[i.val] = some b ∧ t.resPos[i.val] = some p ∧ t.resRecv[i.val] = some r ∧ t.resCorr[i.val] = some c ∧
      exec (.split (BitVec.ofNat 4 i.val)) t = .next u ∧ u.lastOk = true ∧ u.result = b.setWidth 16 ∧
      exec (.process b (posField q i)) u = .next v ∧ v.lastOk = true ∧ v.result = c.setWidth 16 * 256#16 + r.setWidth 16 ∧
      p = posField q i

/-- R234, R235: from any state with BUSY = 0, the host's writes of PAYLOAD, POSVEC and CMD = 0x0008 are three steps to a
state with LAST_OK = 1 and RUN_VALID = 1 that holds the results of exactly these inputs, and nothing of an earlier run. -/
def Obligations.WholeRunFromAnyIdleState : Prop :=
  ∀ (s : State) (x : Payload) (q : PosVec) (rest : List HostAction), s.busy = false → PositionsLegal q →
    s.pending = .write .payload 128 x :: .write .posvec 64 q :: .write .cmd 16 0x0008#16 :: rest →
    ∃ t, Host.Core.run core 3 s = .next t ∧ t.lastOk = true ∧ t.runValid = true ∧ BanksHold x q t ∧
      t.result = s.result ∧ t.firstErr = s.firstErr ∧ t.pending = rest

/-- R21, R55: an unconstrained value reaches only the reply of the read that drew it: a step from two states that differ
only in the model's `reply` and `drawEra` leaves states that again differ only there. -/
def Obligations.DrawsReachOnlyReplies : Prop :=
  ∀ (s : State) (rep : Option Reply) (era : Nat) (t : State), step s = .next t →
    ∃ u, step { s with reply := rep, drawEra := era } = .next u ∧ sameDraws t u = t

/-- R233, R101: the operands of every command but RUN are in the command word, and for SPLIT also in PAYLOAD, so its effect
is the same whatever POSVEC and POSVEC_V hold; R62: nor does it write them. -/
def Obligations.OnlyRunReadsThePositions : Prop :=
  ∀ (i : Instr) (q : Option PosVec) (valid : Bool) (s t : State), i ≠ .run → exec i s = .next t →
    exec i { s with posvec := q, posvecV := valid } = .next { t with posvec := q, posvecV := valid }
end

