-- ==== Sys2Proof/Laws/Operands.lean ====
section
/-!
SUPPORT. Laws/Operands.lean: one spec lemma for each operand operation of Machine/Operands.lean.
-/

namespace Sys2Proof.Machine

open Sys2Proof.Safety

theorem legalPos_iff (p : Nibble) : legalPos p = true ↔ 1 ≤ p.toNat ∧ p.toNat ≤ 8 := by simp [legalPos]

theorem legalPos_eq_false (p : Nibble) : legalPos p = false ↔ p.toNat < 1 ∨ 8 < p.toNat := by
  rw [← Bool.not_eq_true, legalPos_iff]; omega

/-- Bit k of block i of a payload is bit 8i+k of it (R100). -/
@[simp] theorem getLsbD_split (x : Payload) (i k : Nat) :
    (split x i).getLsbD k = (decide (k < 8) && x.getLsbD (8 * i + k)) := by simp [split]

theorem payloadOperand_eq_some {s : State} {x : Payload} :
    payloadOperand s = some x ↔ s.payloadV = true ∧ s.payload = some x := by
  cases h : s.payloadV <;> simp [payloadOperand, h]

theorem payloadOperand_eq_none {s : State} : payloadOperand s = none ↔ s.payloadV = false ∨ s.payload = none := by
  cases h : s.payloadV <;> simp [payloadOperand, h]

theorem posvecOperand_eq_some {s : State} {q : PosVec} :
    posvecOperand s = some q ↔ s.posvecV = true ∧ s.posvec = some q := by
  cases h : s.posvecV <;> simp [posvecOperand, h]

theorem posvecOperand_eq_none {s : State} : posvecOperand s = none ↔ s.posvecV = false ∨ s.posvec = none := by
  cases h : s.posvecV <;> simp [posvecOperand, h]

/-- There is no illegal position exactly when all are legal (R212). -/
theorem firstIllegalPos_eq_none {q : PosVec} : firstIllegalPos q = none ↔ PositionsLegal q := by
  simp only [firstIllegalPos, PositionsLegal, List.find?_eq_none, List.mem_finRange, true_implies]
  refine forall_congr' fun i => ?_
  rw [← legalPos_iff]
  simp

/-- The illegal position found is the lowest (R212). -/
theorem firstIllegalPos_eq_some {q : PosVec} {i : BlockIndex} :
    firstIllegalPos q = some i ↔
      legalPos (posField q i) = false ∧ ∀ j : BlockIndex, j < i → legalPos (posField q j) = true := by
  rw [firstIllegalPos, ← Fin.find?_eq_find?_finRange, Fin.find?_eq_some_iff]
  simp

end Sys2Proof.Machine
end

