-- ==== Sys2Proof/Laws/Aggregator.lean ====
section
/-!
SUPPORT. Laws/Aggregator.lean: the concatenation of 16 blocks bit by bit, and counting bits block by block (46_aggregator_run.md).
-/

namespace Sys2Proof.Machine

theorem getLsbD_append_low {n : Nat} (x : BitVec n) (y : BitVec 8) {k : Nat} (h : k < 8) :
    (x ++ y).getLsbD k = y.getLsbD k := by rw [BitVec.getLsbD_append]; simp [h]

theorem getLsbD_append_high {n : Nat} (x : BitVec n) (y : BitVec 8) (k : Nat) :
    (x ++ y).getLsbD (k + 8) = x.getLsbD k := by rw [BitVec.getLsbD_append]; simp

/-- Bit 8i+k of the concatenation is bit k of block i (R160). -/
theorem getLsbD_concatBlocks (f : BlockIndex → Block) (i : BlockIndex) {k : Nat} (hk : k < 8) :
    (concatBlocks f).getLsbD (8 * i.val + k) = (f i).getLsbD k := by
  obtain ⟨i, hi⟩ := i
  change i < 16 at hi
  have e : 8 * i + k = k + 8 * i := by omega
  simp only [e]
  unfold concatBlocks
  match i, hi with
  | 0, _ => exact getLsbD_append_low _ _ hk
  | 1, _ =>
    iterate 1 (refine (getLsbD_append_high _ _ _).trans ?_)
    exact getLsbD_append_low _ _ hk
  | 2, _ =>
    iterate 2 (refine (getLsbD_append_high _ _ _).trans ?_)
    exact getLsbD_append_low _ _ hk
  | 3, _ =>
    iterate 3 (refine (getLsbD_append_high _ _ _).trans ?_)
    exact getLsbD_append_low _ _ hk
  | 4, _ =>
    iterate 4 (refine (getLsbD_append_high _ _ _).trans ?_)
    exact getLsbD_append_low _ _ hk
  | 5, _ =>
    iterate 5 (refine (getLsbD_append_high _ _ _).trans ?_)
    exact getLsbD_append_low _ _ hk
  | 6, _ =>
    iterate 6 (refine (getLsbD_append_high _ _ _).trans ?_)
    exact getLsbD_append_low _ _ hk
  | 7, _ =>
    iterate 7 (refine (getLsbD_append_high _ _ _).trans ?_)
    exact getLsbD_append_low _ _ hk
  | 8, _ =>
    iterate 8 (refine (getLsbD_append_high _ _ _).trans ?_)
    exact getLsbD_append_low _ _ hk
  | 9, _ =>
    iterate 9 (refine (getLsbD_append_high _ _ _).trans ?_)
    exact getLsbD_append_low _ _ hk
  | 10, _ =>
    iterate 10 (refine (getLsbD_append_high _ _ _).trans ?_)
    exact getLsbD_append_low _ _ hk
  | 11, _ =>
    iterate 11 (refine (getLsbD_append_high _ _ _).trans ?_)
    exact getLsbD_append_low _ _ hk
  | 12, _ =>
    iterate 12 (refine (getLsbD_append_high _ _ _).trans ?_)
    exact getLsbD_append_low _ _ hk
  | 13, _ =>
    iterate 13 (refine (getLsbD_append_high _ _ _).trans ?_)
    exact getLsbD_append_low _ _ hk
  | 14, _ =>
    iterate 14 (refine (getLsbD_append_high _ _ _).trans ?_)
    exact getLsbD_append_low _ _ hk
  | 15, _ =>
    iterate 15 (refine (getLsbD_append_high _ _ _).trans ?_)
    rfl
  | n + 16, h => exact absurd h (by omega)

/-- Block i of the concatenation is block i (R160). -/
@[simp] theorem extractLsb'_concatBlocks (f : BlockIndex → Block) (i : BlockIndex) :
    (concatBlocks f).extractLsb' (8 * i.val) 8 = f i := by
  ext k hk
  simp [hk, getLsbD_concatBlocks]

/-- A bit of a 128-bit value is bit j % 8 of block j / 8 (20_memory.md R52). -/
theorem eq_of_blocks_eq {x y : BitVec 128}
    (h : ∀ (i : BlockIndex) (k : Nat), k < 8 → x.getLsbD (8 * i.val + k) = y.getLsbD (8 * i.val + k)) : x = y := by
  apply BitVec.eq_of_getLsbD_eq
  intro j hj
  have e : j = 8 * (j / 8) + j % 8 := by omega
  have := h ⟨j / 8, by simp only [blockCount]; omega⟩ (j % 8) (by omega)
  rw [e]
  exact this

/-- AGG_ORIG is the payload that RUN read (R165, corner cases). -/
theorem aggregateOrig_lane (x : Payload) (q : PosVec) : aggregateOrig (lane x q) = x := by
  apply eq_of_blocks_eq
  intro i k hk
  rw [aggregateOrig, getLsbD_concatBlocks _ _ hk]
  simp only [lane, getLsbD_split, hk, decide_true, Bool.true_and]

theorem extractLsb'_aggregateCorr_lane (x : Payload) (q : PosVec) (i : BlockIndex) :
    (aggregateCorr (lane x q)).extractLsb' (8 * i.val) 8 = corrected8 (split x i) (posField q i) := by
  simp [aggregateCorr, lane]

/-- Counting over 8n bits is counting block by block. -/
theorem countP_range_blocks (f : Nat → Bool) (n : Nat) :
    (List.range (8 * n)).countP f = ((List.range n).map fun i => (List.range 8).countP fun k => f (8 * i + k)).sum := by
  induction n with
  | zero => rfl
  | succ n ih =>
    rw [Nat.mul_succ, List.range_add, List.countP_append, ih, List.range_succ (n := n), List.map_append, List.sum_append,
      List.countP_map]
    simp [Function.comp_def]

/-- A count of agreeing bits is the number of positions below n where the two agree (R160). -/
theorem popcount_not_xor {n : Nat} (o c : BitVec n) :
    popcount (~~~(o ^^^ c)) = (List.range n).countP fun k => o.getLsbD k == c.getLsbD k := by
  unfold popcount
  apply List.countP_congr
  intro k hk
  have := List.mem_range.mp hk
  cases h1 : o.getLsbD k <;> cases h2 : c.getLsbD k <;> simp_all

end Sys2Proof.Machine
end

