-- ==== Sys2Proof/Laws/Decode.lean ====
section
/-!
SUPPORT. Laws/Decode.lean: the fields of a word {D, P, OPC}, and what the decoder answers on it, said once by opcode.
-/

namespace Sys2Proof

theorem getLsbD_word (d : BitVec 8) (p opc : BitVec 4) (k : Nat) :
    BitVec.getLsbD (w := 16) ((d ++ p) ++ opc) k =
      if k < 4 then opc.getLsbD k else if k - 4 < 4 then p.getLsbD (k - 4) else d.getLsbD (k - 4 - 4) :=
  BitVec.getLsbD_append.trans (by rw [BitVec.getLsbD_append])

@[simp] theorem opcField_word (d : BitVec 8) (p opc : BitVec 4) : opcField ((d ++ p) ++ opc) = opc := by
  ext k hk
  simp [opcField, getLsbD_word, hk]

@[simp] theorem pField_word (d : BitVec 8) (p opc : BitVec 4) : pField ((d ++ p) ++ opc) = p := by
  ext k hk
  simp [pField, getLsbD_word, hk]

@[simp] theorem dField_word (d : BitVec 8) (p opc : BitVec 4) : dField ((d ++ p) ++ opc) = d := by
  ext k hk
  have h1 : ¬ 8 + k < 4 := by omega
  have h2 : ¬ 8 + k - 4 < 4 := by omega
  have h3 : 8 + k - 4 - 4 = k := by omega
  simp [dField, getLsbD_word, h1, h2, h3, hk]

/-- Every word is the concatenation of its own fields. -/
theorem word_of_fields (w : CmdWord) : (dField w ++ pField w) ++ opcField w = w := by
  apply BitVec.eq_of_getLsbD_eq
  intro k hk
  rw [getLsbD_word]
  simp only [opcField, pField, dField, BitVec.getLsbD_extractLsb']
  split
  · simp_all
  split
  · next h1 h2 => simp [h2]; congr 1; omega
  · next h1 h2 =>
    have : k - 4 - 4 < 8 := by omega
    simp [this]; congr 1; omega

/-- Two words are equal exactly when their three fields are. -/
theorem word_inj (d d' : BitVec 8) (p p' opc opc' : BitVec 4) :
    ((d ++ p) ++ opc : CmdWord) = (d' ++ p') ++ opc' ↔ d = d' ∧ p = p' ∧ opc = opc' := by
  constructor
  · intro h
    exact ⟨by simpa using congrArg dField h, by simpa using congrArg pField h, by simpa using congrArg opcField h⟩
  · rintro ⟨rfl, rfl, rfl⟩; rfl

/-- Masking a word masks its fields. -/
theorem word_and (d d' : BitVec 8) (p p' opc opc' : BitVec 4) :
    ((d ++ p) ++ opc : CmdWord) &&& ((d' ++ p') ++ opc') = ((d &&& d') ++ (p &&& p')) ++ (opc &&& opc') := by
  apply BitVec.eq_of_getLsbD_eq
  intro k _
  rw [BitVec.getLsbD_and, getLsbD_word, getLsbD_word, getLsbD_word]
  split
  · simp
  split <;> simp

/-- A mask test on a word is a test on each field. -/
theorem word_and_eq (d md d' : BitVec 8) (p mp p' opc mo opc' : BitVec 4) (mask m : CmdWord)
    (hmask : mask = (md ++ mp) ++ mo) (hm : m = (d' ++ p') ++ opc') :
    ((d ++ p) ++ opc : CmdWord) &&& mask = m ↔ d &&& md = d' ∧ p &&& mp = p' ∧ opc &&& mo = opc' := by
  rw [hmask, hm, word_and, word_inj]

theorem nibble_and_ones (p : BitVec 4) : p &&& 0xF#4 = p := BitVec.and_allOnes

theorem byte_and_ones (d : BitVec 8) : d &&& 0xFF#8 = d := BitVec.and_allOnes

/-- What `decode` answers on {D, P, OPC}, opcode by opcode (30_encoding.md R75, R76). -/
theorem decode_word (d : BitVec 8) (p opc : BitVec 4) :
    decode ((d ++ p) ++ opc) =
      match opc.toNat with
      | 0 => if d = 0#8 ∧ p = 0#4 then .ok .nop else .error .reservedFieldBit
      | 1 => if d &&& 0x80#8 = 0#8 ∧ p = 0#4 then .ok (.parity (d.extractLsb' 0 7)) else .error .reservedFieldBit
      | 2 => if d &&& 0x80#8 = 0#8 ∧ p = 0#4 then .ok (.syndrome (d.extractLsb' 0 7)) else .error .reservedFieldBit
      | 3 => if d &&& 0xF8#8 = 0#8 ∧ p = 0#4 then .ok (.locate (d.extractLsb' 0 3)) else .error .reservedFieldBit
      | 4 => if d &&& 0x80#8 = 0#8 ∧ p = 0#4 then .ok (.correct (d.extractLsb' 0 7)) else .error .reservedFieldBit
      | 5 => .ok (.inject d p)
      | 6 => .ok (.process d p)
      | 7 => if d = 0#8 then .ok (.split p) else .error .reservedFieldBit
      | 8 => if d = 0#8 ∧ p = 0#4 then .ok .run else .error .reservedFieldBit
      | 9 => if d = 0#8 ∧ p = 0#4 then .ok .clrerr else .error .reservedFieldBit
      | _ => .error .reservedOpcode := by
  have row : ∀ (k : Nat) (md : BitVec 8) (mp : BitVec 4), opc.toNat = k → k < 16 →
      maskOf k = (md ++ mp) ++ 0xF#4 → matchOf k = (0#8 ++ 0#4) ++ BitVec.ofNat 4 k →
      (((d ++ p) ++ opc : CmdWord) &&& maskOf k = matchOf k ↔ d &&& md = 0#8 ∧ p &&& mp = 0#4) := by
    intro k md mp hk hlt hmask hm
    rw [word_and_eq _ md _ _ mp _ _ 0xF#4 _ _ _ hmask hm]
    have : opc = BitVec.ofNat 4 k := by
      apply BitVec.eq_of_toNat_eq
      rw [BitVec.toNat_ofNat, hk, Nat.mod_eq_of_lt (by omega)]
    simp [this, nibble_and_ones]
  simp only [decode, opcField_word, pField_word, dField_word]
  have hlt : opc.toNat < 16 := opc.isLt
  generalize hk : opc.toNat = k at *
  match k, hk with
  | 0, _ => simp [row 0 0xFF#8 0xF#4 rfl (by decide) (by decide) (by decide), byte_and_ones, nibble_and_ones, -not_and]
  | 1, _ => simp [row 1 0x80#8 0xF#4 rfl (by decide) (by decide) (by decide), nibble_and_ones, -not_and]
  | 2, _ => simp [row 2 0x80#8 0xF#4 rfl (by decide) (by decide) (by decide), nibble_and_ones, -not_and]
  | 3, _ => simp [row 3 0xF8#8 0xF#4 rfl (by decide) (by decide) (by decide), nibble_and_ones, -not_and]
  | 4, _ => simp [row 4 0x80#8 0xF#4 rfl (by decide) (by decide) (by decide), nibble_and_ones, -not_and]
  | 5, _ => simp [row 5 0#8 0#4 rfl (by decide) (by decide) (by decide), -not_and]
  | 6, _ => simp [row 6 0#8 0#4 rfl (by decide) (by decide) (by decide), -not_and]
  | 7, _ => simp [row 7 0xFF#8 0#4 rfl (by decide) (by decide) (by decide), byte_and_ones, -not_and]
  | 8, _ => simp [row 8 0xFF#8 0xF#4 rfl (by decide) (by decide) (by decide), byte_and_ones, nibble_and_ones, -not_and]
  | 9, _ => simp [row 9 0xFF#8 0xF#4 rfl (by decide) (by decide) (by decide), byte_and_ones, nibble_and_ones, -not_and]
  | n + 10, _ => simp

/-- The fields of a command's own word (30_encoding.md R74). -/
@[simp] theorem opcField_encode (i : Instr) : opcField (encode i) = i.opcode := opcField_word ..

@[simp] theorem pField_encode (i : Instr) : pField (encode i) = i.pOperand := pField_word ..

@[simp] theorem dField_encode (i : Instr) : dField (encode i) = i.dOperand := dField_word ..

end Sys2Proof
end

