-- ==== Sys2Proof/Laws/State.lean ====
section
/-!
SUPPORT. Laws/State.lean: one lemma per field per update of State, true by rfl, so that no later proof unfolds a record
update.
-/

namespace Sys2Proof.Machine

@[simp] theorem complete_payload (s : State) : (complete s).payload = s.payload := rfl
@[simp] theorem complete_posvec (s : State) : (complete s).posvec = s.posvec := rfl
@[simp] theorem complete_result (s : State) : (complete s).result = s.result := rfl
@[simp] theorem complete_lastOk (s : State) : (complete s).lastOk = true := rfl
@[simp] theorem complete_runValid (s : State) : (complete s).runValid = s.runValid := rfl
@[simp] theorem complete_payloadV (s : State) : (complete s).payloadV = s.payloadV := rfl
@[simp] theorem complete_posvecV (s : State) : (complete s).posvecV = s.posvecV := rfl
@[simp] theorem complete_busy (s : State) : (complete s).busy = false := rfl
@[simp] theorem complete_lastErr (s : State) : (complete s).lastErr = 0#4 := rfl
@[simp] theorem complete_firstErr (s : State) : (complete s).firstErr = s.firstErr := rfl
@[simp] theorem complete_errBlock (s : State) : (complete s).errBlock = 0#4 := rfl
@[simp] theorem complete_resOrig (s : State) : (complete s).resOrig = s.resOrig := rfl
@[simp] theorem complete_resPos (s : State) : (complete s).resPos = s.resPos := rfl
@[simp] theorem complete_resRecv (s : State) : (complete s).resRecv = s.resRecv := rfl
@[simp] theorem complete_resCorr (s : State) : (complete s).resCorr = s.resCorr := rfl
@[simp] theorem complete_aggOrig (s : State) : (complete s).aggOrig = s.aggOrig := rfl
@[simp] theorem complete_aggCorr (s : State) : (complete s).aggCorr = s.aggCorr := rfl
@[simp] theorem complete_aggStat (s : State) : (complete s).aggStat = s.aggStat := rfl
@[simp] theorem complete_pending (s : State) : (complete s).pending = s.pending := rfl
@[simp] theorem complete_reply (s : State) : (complete s).reply = s.reply := rfl
@[simp] theorem complete_drawEra (s : State) : (complete s).drawEra = s.drawEra := rfl

@[simp] theorem raiseFault_payload (c : FaultCode) (b : BitVec 4) (s : State) :
    (raiseFault c b s).payload = s.payload := rfl
@[simp] theorem raiseFault_posvec (c : FaultCode) (b : BitVec 4) (s : State) :
    (raiseFault c b s).posvec = s.posvec := rfl
@[simp] theorem raiseFault_result (c : FaultCode) (b : BitVec 4) (s : State) :
    (raiseFault c b s).result = s.result := rfl
@[simp] theorem raiseFault_lastOk (c : FaultCode) (b : BitVec 4) (s : State) : (raiseFault c b s).lastOk = false := rfl
@[simp] theorem raiseFault_runValid (c : FaultCode) (b : BitVec 4) (s : State) :
    (raiseFault c b s).runValid = s.runValid := rfl
@[simp] theorem raiseFault_payloadV (c : FaultCode) (b : BitVec 4) (s : State) :
    (raiseFault c b s).payloadV = s.payloadV := rfl
@[simp] theorem raiseFault_posvecV (c : FaultCode) (b : BitVec 4) (s : State) :
    (raiseFault c b s).posvecV = s.posvecV := rfl
@[simp] theorem raiseFault_busy (c : FaultCode) (b : BitVec 4) (s : State) : (raiseFault c b s).busy = false := rfl
@[simp] theorem raiseFault_lastErr (c : FaultCode) (b : BitVec 4) (s : State) :
    (raiseFault c b s).lastErr = c.toBits := rfl
@[simp] theorem raiseFault_firstErr (c : FaultCode) (b : BitVec 4) (s : State) :
    (raiseFault c b s).firstErr = firstErrAfter s.firstErr c.toBits := rfl
@[simp] theorem raiseFault_errBlock (c : FaultCode) (b : BitVec 4) (s : State) : (raiseFault c b s).errBlock = b := rfl
@[simp] theorem raiseFault_resOrig (c : FaultCode) (b : BitVec 4) (s : State) :
    (raiseFault c b s).resOrig = s.resOrig := rfl
@[simp] theorem raiseFault_resPos (c : FaultCode) (b : BitVec 4) (s : State) :
    (raiseFault c b s).resPos = s.resPos := rfl
@[simp] theorem raiseFault_resRecv (c : FaultCode) (b : BitVec 4) (s : State) :
    (raiseFault c b s).resRecv = s.resRecv := rfl
@[simp] theorem raiseFault_resCorr (c : FaultCode) (b : BitVec 4) (s : State) :
    (raiseFault c b s).resCorr = s.resCorr := rfl
@[simp] theorem raiseFault_aggOrig (c : FaultCode) (b : BitVec 4) (s : State) :
    (raiseFault c b s).aggOrig = s.aggOrig := rfl
@[simp] theorem raiseFault_aggCorr (c : FaultCode) (b : BitVec 4) (s : State) :
    (raiseFault c b s).aggCorr = s.aggCorr := rfl
@[simp] theorem raiseFault_aggStat (c : FaultCode) (b : BitVec 4) (s : State) :
    (raiseFault c b s).aggStat = s.aggStat := rfl
@[simp] theorem raiseFault_pending (c : FaultCode) (b : BitVec 4) (s : State) :
    (raiseFault c b s).pending = s.pending := rfl
@[simp] theorem raiseFault_reply (c : FaultCode) (b : BitVec 4) (s : State) : (raiseFault c b s).reply = s.reply := rfl
@[simp] theorem raiseFault_drawEra (c : FaultCode) (b : BitVec 4) (s : State) :
    (raiseFault c b s).drawEra = s.drawEra := rfl

@[simp] theorem raiseRunFault_payload (c : FaultCode) (b : BitVec 4) (s : State) :
    (raiseRunFault c b s).payload = s.payload := rfl
@[simp] theorem raiseRunFault_posvec (c : FaultCode) (b : BitVec 4) (s : State) :
    (raiseRunFault c b s).posvec = s.posvec := rfl
@[simp] theorem raiseRunFault_result (c : FaultCode) (b : BitVec 4) (s : State) :
    (raiseRunFault c b s).result = s.result := rfl
@[simp] theorem raiseRunFault_lastOk (c : FaultCode) (b : BitVec 4) (s : State) :
    (raiseRunFault c b s).lastOk = false := rfl
@[simp] theorem raiseRunFault_runValid (c : FaultCode) (b : BitVec 4) (s : State) :
    (raiseRunFault c b s).runValid = false := rfl
@[simp] theorem raiseRunFault_payloadV (c : FaultCode) (b : BitVec 4) (s : State) :
    (raiseRunFault c b s).payloadV = s.payloadV := rfl
@[simp] theorem raiseRunFault_posvecV (c : FaultCode) (b : BitVec 4) (s : State) :
    (raiseRunFault c b s).posvecV = s.posvecV := rfl
@[simp] theorem raiseRunFault_busy (c : FaultCode) (b : BitVec 4) (s : State) :
    (raiseRunFault c b s).busy = false := rfl
@[simp] theorem raiseRunFault_lastErr (c : FaultCode) (b : BitVec 4) (s : State) :
    (raiseRunFault c b s).lastErr = c.toBits := rfl
@[simp] theorem raiseRunFault_firstErr (c : FaultCode) (b : BitVec 4) (s : State) :
    (raiseRunFault c b s).firstErr = firstErrAfter s.firstErr c.toBits := rfl
@[simp] theorem raiseRunFault_errBlock (c : FaultCode) (b : BitVec 4) (s : State) :
    (raiseRunFault c b s).errBlock = b := rfl
@[simp] theorem raiseRunFault_resOrig (c : FaultCode) (b : BitVec 4) (s : State) :
    (raiseRunFault c b s).resOrig = s.resOrig := rfl
@[simp] theorem raiseRunFault_resPos (c : FaultCode) (b : BitVec 4) (s : State) :
    (raiseRunFault c b s).resPos = s.resPos := rfl
@[simp] theorem raiseRunFault_resRecv (c : FaultCode) (b : BitVec 4) (s : State) :
    (raiseRunFault c b s).resRecv = s.resRecv := rfl
@[simp] theorem raiseRunFault_resCorr (c : FaultCode) (b : BitVec 4) (s : State) :
    (raiseRunFault c b s).resCorr = s.resCorr := rfl
@[simp] theorem raiseRunFault_aggOrig (c : FaultCode) (b : BitVec 4) (s : State) :
    (raiseRunFault c b s).aggOrig = s.aggOrig := rfl
@[simp] theorem raiseRunFault_aggCorr (c : FaultCode) (b : BitVec 4) (s : State) :
    (raiseRunFault c b s).aggCorr = s.aggCorr := rfl
@[simp] theorem raiseRunFault_aggStat (c : FaultCode) (b : BitVec 4) (s : State) :
    (raiseRunFault c b s).aggStat = s.aggStat := rfl
@[simp] theorem raiseRunFault_pending (c : FaultCode) (b : BitVec 4) (s : State) :
    (raiseRunFault c b s).pending = s.pending := rfl
@[simp] theorem raiseRunFault_reply (c : FaultCode) (b : BitVec 4) (s : State) :
    (raiseRunFault c b s).reply = s.reply := rfl
@[simp] theorem raiseRunFault_drawEra (c : FaultCode) (b : BitVec 4) (s : State) :
    (raiseRunFault c b s).drawEra = s.drawEra := rfl

@[simp] theorem setResult_payload (v : BitVec 16) (s : State) : (setResult v s).payload = s.payload := rfl
@[simp] theorem setResult_posvec (v : BitVec 16) (s : State) : (setResult v s).posvec = s.posvec := rfl
@[simp] theorem setResult_result (v : BitVec 16) (s : State) : (setResult v s).result = v := rfl
@[simp] theorem setResult_lastOk (v : BitVec 16) (s : State) : (setResult v s).lastOk = s.lastOk := rfl
@[simp] theorem setResult_runValid (v : BitVec 16) (s : State) : (setResult v s).runValid = s.runValid := rfl
@[simp] theorem setResult_payloadV (v : BitVec 16) (s : State) : (setResult v s).payloadV = s.payloadV := rfl
@[simp] theorem setResult_posvecV (v : BitVec 16) (s : State) : (setResult v s).posvecV = s.posvecV := rfl
@[simp] theorem setResult_busy (v : BitVec 16) (s : State) : (setResult v s).busy = s.busy := rfl
@[simp] theorem setResult_lastErr (v : BitVec 16) (s : State) : (setResult v s).lastErr = s.lastErr := rfl
@[simp] theorem setResult_firstErr (v : BitVec 16) (s : State) : (setResult v s).firstErr = s.firstErr := rfl
@[simp] theorem setResult_errBlock (v : BitVec 16) (s : State) : (setResult v s).errBlock = s.errBlock := rfl
@[simp] theorem setResult_resOrig (v : BitVec 16) (s : State) : (setResult v s).resOrig = s.resOrig := rfl
@[simp] theorem setResult_resPos (v : BitVec 16) (s : State) : (setResult v s).resPos = s.resPos := rfl
@[simp] theorem setResult_resRecv (v : BitVec 16) (s : State) : (setResult v s).resRecv = s.resRecv := rfl
@[simp] theorem setResult_resCorr (v : BitVec 16) (s : State) : (setResult v s).resCorr = s.resCorr := rfl
@[simp] theorem setResult_aggOrig (v : BitVec 16) (s : State) : (setResult v s).aggOrig = s.aggOrig := rfl
@[simp] theorem setResult_aggCorr (v : BitVec 16) (s : State) : (setResult v s).aggCorr = s.aggCorr := rfl
@[simp] theorem setResult_aggStat (v : BitVec 16) (s : State) : (setResult v s).aggStat = s.aggStat := rfl
@[simp] theorem setResult_pending (v : BitVec 16) (s : State) : (setResult v s).pending = s.pending := rfl
@[simp] theorem setResult_reply (v : BitVec 16) (s : State) : (setResult v s).reply = s.reply := rfl
@[simp] theorem setResult_drawEra (v : BitVec 16) (s : State) : (setResult v s).drawEra = s.drawEra := rfl

@[simp] theorem clearFirstErr_payload (s : State) : (clearFirstErr s).payload = s.payload := rfl
@[simp] theorem clearFirstErr_posvec (s : State) : (clearFirstErr s).posvec = s.posvec := rfl
@[simp] theorem clearFirstErr_result (s : State) : (clearFirstErr s).result = s.result := rfl
@[simp] theorem clearFirstErr_lastOk (s : State) : (clearFirstErr s).lastOk = s.lastOk := rfl
@[simp] theorem clearFirstErr_runValid (s : State) : (clearFirstErr s).runValid = s.runValid := rfl
@[simp] theorem clearFirstErr_payloadV (s : State) : (clearFirstErr s).payloadV = s.payloadV := rfl
@[simp] theorem clearFirstErr_posvecV (s : State) : (clearFirstErr s).posvecV = s.posvecV := rfl
@[simp] theorem clearFirstErr_busy (s : State) : (clearFirstErr s).busy = s.busy := rfl
@[simp] theorem clearFirstErr_lastErr (s : State) : (clearFirstErr s).lastErr = s.lastErr := rfl
@[simp] theorem clearFirstErr_firstErr (s : State) : (clearFirstErr s).firstErr = 0#4 := rfl
@[simp] theorem clearFirstErr_errBlock (s : State) : (clearFirstErr s).errBlock = s.errBlock := rfl
@[simp] theorem clearFirstErr_resOrig (s : State) : (clearFirstErr s).resOrig = s.resOrig := rfl
@[simp] theorem clearFirstErr_resPos (s : State) : (clearFirstErr s).resPos = s.resPos := rfl
@[simp] theorem clearFirstErr_resRecv (s : State) : (clearFirstErr s).resRecv = s.resRecv := rfl
@[simp] theorem clearFirstErr_resCorr (s : State) : (clearFirstErr s).resCorr = s.resCorr := rfl
@[simp] theorem clearFirstErr_aggOrig (s : State) : (clearFirstErr s).aggOrig = s.aggOrig := rfl
@[simp] theorem clearFirstErr_aggCorr (s : State) : (clearFirstErr s).aggCorr = s.aggCorr := rfl
@[simp] theorem clearFirstErr_aggStat (s : State) : (clearFirstErr s).aggStat = s.aggStat := rfl
@[simp] theorem clearFirstErr_pending (s : State) : (clearFirstErr s).pending = s.pending := rfl
@[simp] theorem clearFirstErr_reply (s : State) : (clearFirstErr s).reply = s.reply := rfl
@[simp] theorem clearFirstErr_drawEra (s : State) : (clearFirstErr s).drawEra = s.drawEra := rfl

@[simp] theorem storeRun_payload (x : Payload) (q : PosVec) (s : State) : (storeRun x q s).payload = s.payload := rfl
@[simp] theorem storeRun_posvec (x : Payload) (q : PosVec) (s : State) : (storeRun x q s).posvec = s.posvec := rfl
@[simp] theorem storeRun_result (x : Payload) (q : PosVec) (s : State) : (storeRun x q s).result = s.result := rfl
@[simp] theorem storeRun_lastOk (x : Payload) (q : PosVec) (s : State) : (storeRun x q s).lastOk = s.lastOk := rfl
@[simp] theorem storeRun_runValid (x : Payload) (q : PosVec) (s : State) : (storeRun x q s).runValid = true := rfl
@[simp] theorem storeRun_payloadV (x : Payload) (q : PosVec) (s : State) : (storeRun x q s).payloadV = s.payloadV := rfl
@[simp] theorem storeRun_posvecV (x : Payload) (q : PosVec) (s : State) : (storeRun x q s).posvecV = s.posvecV := rfl
@[simp] theorem storeRun_busy (x : Payload) (q : PosVec) (s : State) : (storeRun x q s).busy = s.busy := rfl
@[simp] theorem storeRun_lastErr (x : Payload) (q : PosVec) (s : State) : (storeRun x q s).lastErr = s.lastErr := rfl
@[simp] theorem storeRun_firstErr (x : Payload) (q : PosVec) (s : State) : (storeRun x q s).firstErr = s.firstErr := rfl
@[simp] theorem storeRun_errBlock (x : Payload) (q : PosVec) (s : State) : (storeRun x q s).errBlock = s.errBlock := rfl
@[simp] theorem storeRun_resOrig (x : Payload) (q : PosVec) (s : State) :
    (storeRun x q s).resOrig = Vector.ofFn fun i => some (lane x q i).original := rfl
@[simp] theorem storeRun_resPos (x : Payload) (q : PosVec) (s : State) :
    (storeRun x q s).resPos = Vector.ofFn fun i => some (lane x q i).position := rfl
@[simp] theorem storeRun_resRecv (x : Payload) (q : PosVec) (s : State) :
    (storeRun x q s).resRecv = Vector.ofFn fun i => some (lane x q i).received := rfl
@[simp] theorem storeRun_resCorr (x : Payload) (q : PosVec) (s : State) :
    (storeRun x q s).resCorr = Vector.ofFn fun i => some (lane x q i).corrected := rfl
@[simp] theorem storeRun_aggOrig (x : Payload) (q : PosVec) (s : State) :
    (storeRun x q s).aggOrig = some (aggregateOrig (lane x q)) := rfl
@[simp] theorem storeRun_aggCorr (x : Payload) (q : PosVec) (s : State) :
    (storeRun x q s).aggCorr = some (aggregateCorr (lane x q)) := rfl
@[simp] theorem storeRun_aggStat (x : Payload) (q : PosVec) (s : State) :
    (storeRun x q s).aggStat = some (aggStatWord (aggregateEq (aggregateOrig (lane x q)) (aggregateCorr (lane x q)))
      (aggregateMatch (aggregateOrig (lane x q)) (aggregateCorr (lane x q)))) := rfl
@[simp] theorem storeRun_pending (x : Payload) (q : PosVec) (s : State) : (storeRun x q s).pending = s.pending := rfl
@[simp] theorem storeRun_reply (x : Payload) (q : PosVec) (s : State) : (storeRun x q s).reply = s.reply := rfl
@[simp] theorem storeRun_drawEra (x : Payload) (q : PosVec) (s : State) : (storeRun x q s).drawEra = s.drawEra := rfl

@[simp] theorem newEra_payload (s : State) : (newEra s).payload = s.payload := rfl
@[simp] theorem newEra_posvec (s : State) : (newEra s).posvec = s.posvec := rfl
@[simp] theorem newEra_result (s : State) : (newEra s).result = s.result := rfl
@[simp] theorem newEra_lastOk (s : State) : (newEra s).lastOk = s.lastOk := rfl
@[simp] theorem newEra_runValid (s : State) : (newEra s).runValid = s.runValid := rfl
@[simp] theorem newEra_payloadV (s : State) : (newEra s).payloadV = s.payloadV := rfl
@[simp] theorem newEra_posvecV (s : State) : (newEra s).posvecV = s.posvecV := rfl
@[simp] theorem newEra_busy (s : State) : (newEra s).busy = s.busy := rfl
@[simp] theorem newEra_lastErr (s : State) : (newEra s).lastErr = s.lastErr := rfl
@[simp] theorem newEra_firstErr (s : State) : (newEra s).firstErr = s.firstErr := rfl
@[simp] theorem newEra_errBlock (s : State) : (newEra s).errBlock = s.errBlock := rfl
@[simp] theorem newEra_resOrig (s : State) : (newEra s).resOrig = s.resOrig := rfl
@[simp] theorem newEra_resPos (s : State) : (newEra s).resPos = s.resPos := rfl
@[simp] theorem newEra_resRecv (s : State) : (newEra s).resRecv = s.resRecv := rfl
@[simp] theorem newEra_resCorr (s : State) : (newEra s).resCorr = s.resCorr := rfl
@[simp] theorem newEra_aggOrig (s : State) : (newEra s).aggOrig = s.aggOrig := rfl
@[simp] theorem newEra_aggCorr (s : State) : (newEra s).aggCorr = s.aggCorr := rfl
@[simp] theorem newEra_aggStat (s : State) : (newEra s).aggStat = s.aggStat := rfl
@[simp] theorem newEra_pending (s : State) : (newEra s).pending = s.pending := rfl
@[simp] theorem newEra_reply (s : State) : (newEra s).reply = s.reply := rfl
@[simp] theorem newEra_drawEra (s : State) : (newEra s).drawEra = s.drawEra + 1 := rfl

@[simp] theorem hostWritePayload_payload (v : Payload) (s : State) : (hostWritePayload v s).payload = some v := rfl
@[simp] theorem hostWritePayload_posvec (v : Payload) (s : State) : (hostWritePayload v s).posvec = s.posvec := rfl
@[simp] theorem hostWritePayload_result (v : Payload) (s : State) : (hostWritePayload v s).result = s.result := rfl
@[simp] theorem hostWritePayload_lastOk (v : Payload) (s : State) : (hostWritePayload v s).lastOk = s.lastOk := rfl
@[simp] theorem hostWritePayload_runValid (v : Payload) (s : State) :
    (hostWritePayload v s).runValid = s.runValid := rfl
@[simp] theorem hostWritePayload_payloadV (v : Payload) (s : State) : (hostWritePayload v s).payloadV = true := rfl
@[simp] theorem hostWritePayload_posvecV (v : Payload) (s : State) : (hostWritePayload v s).posvecV = s.posvecV := rfl
@[simp] theorem hostWritePayload_busy (v : Payload) (s : State) : (hostWritePayload v s).busy = s.busy := rfl
@[simp] theorem hostWritePayload_lastErr (v : Payload) (s : State) : (hostWritePayload v s).lastErr = s.lastErr := rfl
@[simp] theorem hostWritePayload_firstErr (v : Payload) (s : State) :
    (hostWritePayload v s).firstErr = s.firstErr := rfl
@[simp] theorem hostWritePayload_errBlock (v : Payload) (s : State) :
    (hostWritePayload v s).errBlock = s.errBlock := rfl
@[simp] theorem hostWritePayload_resOrig (v : Payload) (s : State) : (hostWritePayload v s).resOrig = s.resOrig := rfl
@[simp] theorem hostWritePayload_resPos (v : Payload) (s : State) : (hostWritePayload v s).resPos = s.resPos := rfl
@[simp] theorem hostWritePayload_resRecv (v : Payload) (s : State) : (hostWritePayload v s).resRecv = s.resRecv := rfl
@[simp] theorem hostWritePayload_resCorr (v : Payload) (s : State) : (hostWritePayload v s).resCorr = s.resCorr := rfl
@[simp] theorem hostWritePayload_aggOrig (v : Payload) (s : State) : (hostWritePayload v s).aggOrig = s.aggOrig := rfl
@[simp] theorem hostWritePayload_aggCorr (v : Payload) (s : State) : (hostWritePayload v s).aggCorr = s.aggCorr := rfl
@[simp] theorem hostWritePayload_aggStat (v : Payload) (s : State) : (hostWritePayload v s).aggStat = s.aggStat := rfl
@[simp] theorem hostWritePayload_pending (v : Payload) (s : State) : (hostWritePayload v s).pending = s.pending := rfl
@[simp] theorem hostWritePayload_reply (v : Payload) (s : State) : (hostWritePayload v s).reply = s.reply := rfl
@[simp] theorem hostWritePayload_drawEra (v : Payload) (s : State) :
    (hostWritePayload v s).drawEra = s.drawEra + 1 := rfl

@[simp] theorem hostWritePosvec_payload (v : PosVec) (s : State) : (hostWritePosvec v s).payload = s.payload := rfl
@[simp] theorem hostWritePosvec_posvec (v : PosVec) (s : State) : (hostWritePosvec v s).posvec = some v := rfl
@[simp] theorem hostWritePosvec_result (v : PosVec) (s : State) : (hostWritePosvec v s).result = s.result := rfl
@[simp] theorem hostWritePosvec_lastOk (v : PosVec) (s : State) : (hostWritePosvec v s).lastOk = s.lastOk := rfl
@[simp] theorem hostWritePosvec_runValid (v : PosVec) (s : State) : (hostWritePosvec v s).runValid = s.runValid := rfl
@[simp] theorem hostWritePosvec_payloadV (v : PosVec) (s : State) : (hostWritePosvec v s).payloadV = s.payloadV := rfl
@[simp] theorem hostWritePosvec_posvecV (v : PosVec) (s : State) : (hostWritePosvec v s).posvecV = true := rfl
@[simp] theorem hostWritePosvec_busy (v : PosVec) (s : State) : (hostWritePosvec v s).busy = s.busy := rfl
@[simp] theorem hostWritePosvec_lastErr (v : PosVec) (s : State) : (hostWritePosvec v s).lastErr = s.lastErr := rfl
@[simp] theorem hostWritePosvec_firstErr (v : PosVec) (s : State) : (hostWritePosvec v s).firstErr = s.firstErr := rfl
@[simp] theorem hostWritePosvec_errBlock (v : PosVec) (s : State) : (hostWritePosvec v s).errBlock = s.errBlock := rfl
@[simp] theorem hostWritePosvec_resOrig (v : PosVec) (s : State) : (hostWritePosvec v s).resOrig = s.resOrig := rfl
@[simp] theorem hostWritePosvec_resPos (v : PosVec) (s : State) : (hostWritePosvec v s).resPos = s.resPos := rfl
@[simp] theorem hostWritePosvec_resRecv (v : PosVec) (s : State) : (hostWritePosvec v s).resRecv = s.resRecv := rfl
@[simp] theorem hostWritePosvec_resCorr (v : PosVec) (s : State) : (hostWritePosvec v s).resCorr = s.resCorr := rfl
@[simp] theorem hostWritePosvec_aggOrig (v : PosVec) (s : State) : (hostWritePosvec v s).aggOrig = s.aggOrig := rfl
@[simp] theorem hostWritePosvec_aggCorr (v : PosVec) (s : State) : (hostWritePosvec v s).aggCorr = s.aggCorr := rfl
@[simp] theorem hostWritePosvec_aggStat (v : PosVec) (s : State) : (hostWritePosvec v s).aggStat = s.aggStat := rfl
@[simp] theorem hostWritePosvec_pending (v : PosVec) (s : State) : (hostWritePosvec v s).pending = s.pending := rfl
@[simp] theorem hostWritePosvec_reply (v : PosVec) (s : State) : (hostWritePosvec v s).reply = s.reply := rfl
@[simp] theorem hostWritePosvec_drawEra (v : PosVec) (s : State) : (hostWritePosvec v s).drawEra = s.drawEra + 1 := rfl

@[simp] theorem hostRead_payload (r : Reg) (s : State) : (hostRead r s).payload = s.payload := rfl
@[simp] theorem hostRead_posvec (r : Reg) (s : State) : (hostRead r s).posvec = s.posvec := rfl
@[simp] theorem hostRead_result (r : Reg) (s : State) : (hostRead r s).result = s.result := rfl
@[simp] theorem hostRead_lastOk (r : Reg) (s : State) : (hostRead r s).lastOk = s.lastOk := rfl
@[simp] theorem hostRead_runValid (r : Reg) (s : State) : (hostRead r s).runValid = s.runValid := rfl
@[simp] theorem hostRead_payloadV (r : Reg) (s : State) : (hostRead r s).payloadV = s.payloadV := rfl
@[simp] theorem hostRead_posvecV (r : Reg) (s : State) : (hostRead r s).posvecV = s.posvecV := rfl
@[simp] theorem hostRead_busy (r : Reg) (s : State) : (hostRead r s).busy = s.busy := rfl
@[simp] theorem hostRead_lastErr (r : Reg) (s : State) : (hostRead r s).lastErr = s.lastErr := rfl
@[simp] theorem hostRead_firstErr (r : Reg) (s : State) : (hostRead r s).firstErr = s.firstErr := rfl
@[simp] theorem hostRead_errBlock (r : Reg) (s : State) : (hostRead r s).errBlock = s.errBlock := rfl
@[simp] theorem hostRead_resOrig (r : Reg) (s : State) : (hostRead r s).resOrig = s.resOrig := rfl
@[simp] theorem hostRead_resPos (r : Reg) (s : State) : (hostRead r s).resPos = s.resPos := rfl
@[simp] theorem hostRead_resRecv (r : Reg) (s : State) : (hostRead r s).resRecv = s.resRecv := rfl
@[simp] theorem hostRead_resCorr (r : Reg) (s : State) : (hostRead r s).resCorr = s.resCorr := rfl
@[simp] theorem hostRead_aggOrig (r : Reg) (s : State) : (hostRead r s).aggOrig = s.aggOrig := rfl
@[simp] theorem hostRead_aggCorr (r : Reg) (s : State) : (hostRead r s).aggCorr = s.aggCorr := rfl
@[simp] theorem hostRead_aggStat (r : Reg) (s : State) : (hostRead r s).aggStat = s.aggStat := rfl
@[simp] theorem hostRead_pending (r : Reg) (s : State) : (hostRead r s).pending = s.pending := rfl
@[simp] theorem hostRead_reply (r : Reg) (s : State) : (hostRead r s).reply = some ⟨r, readValue s r⟩ := rfl
@[simp] theorem hostRead_drawEra (r : Reg) (s : State) : (hostRead r s).drawEra = s.drawEra := rfl

@[simp] theorem hostReset_payload (s : State) : (hostReset s).payload = State.reset.payload := rfl
@[simp] theorem hostReset_posvec (s : State) : (hostReset s).posvec = State.reset.posvec := rfl
@[simp] theorem hostReset_result (s : State) : (hostReset s).result = State.reset.result := rfl
@[simp] theorem hostReset_lastOk (s : State) : (hostReset s).lastOk = State.reset.lastOk := rfl
@[simp] theorem hostReset_runValid (s : State) : (hostReset s).runValid = State.reset.runValid := rfl
@[simp] theorem hostReset_payloadV (s : State) : (hostReset s).payloadV = State.reset.payloadV := rfl
@[simp] theorem hostReset_posvecV (s : State) : (hostReset s).posvecV = State.reset.posvecV := rfl
@[simp] theorem hostReset_busy (s : State) : (hostReset s).busy = State.reset.busy := rfl
@[simp] theorem hostReset_lastErr (s : State) : (hostReset s).lastErr = State.reset.lastErr := rfl
@[simp] theorem hostReset_firstErr (s : State) : (hostReset s).firstErr = State.reset.firstErr := rfl
@[simp] theorem hostReset_errBlock (s : State) : (hostReset s).errBlock = State.reset.errBlock := rfl
@[simp] theorem hostReset_resOrig (s : State) : (hostReset s).resOrig = State.reset.resOrig := rfl
@[simp] theorem hostReset_resPos (s : State) : (hostReset s).resPos = State.reset.resPos := rfl
@[simp] theorem hostReset_resRecv (s : State) : (hostReset s).resRecv = State.reset.resRecv := rfl
@[simp] theorem hostReset_resCorr (s : State) : (hostReset s).resCorr = State.reset.resCorr := rfl
@[simp] theorem hostReset_aggOrig (s : State) : (hostReset s).aggOrig = State.reset.aggOrig := rfl
@[simp] theorem hostReset_aggCorr (s : State) : (hostReset s).aggCorr = State.reset.aggCorr := rfl
@[simp] theorem hostReset_aggStat (s : State) : (hostReset s).aggStat = State.reset.aggStat := rfl
@[simp] theorem hostReset_pending (s : State) : (hostReset s).pending = s.pending := rfl
@[simp] theorem hostReset_reply (s : State) : (hostReset s).reply = s.reply := rfl
@[simp] theorem hostReset_drawEra (s : State) : (hostReset s).drawEra = s.drawEra + 1 := rfl

@[simp] theorem withFetchWord_payload (s : State) (n w : Nat) : (s.withFetchWord n w).payload = s.payload := rfl
@[simp] theorem withFetchWord_posvec (s : State) (n w : Nat) : (s.withFetchWord n w).posvec = s.posvec := rfl
@[simp] theorem withFetchWord_result (s : State) (n w : Nat) : (s.withFetchWord n w).result = s.result := rfl
@[simp] theorem withFetchWord_lastOk (s : State) (n w : Nat) : (s.withFetchWord n w).lastOk = s.lastOk := rfl
@[simp] theorem withFetchWord_runValid (s : State) (n w : Nat) : (s.withFetchWord n w).runValid = s.runValid := rfl
@[simp] theorem withFetchWord_payloadV (s : State) (n w : Nat) : (s.withFetchWord n w).payloadV = s.payloadV := rfl
@[simp] theorem withFetchWord_posvecV (s : State) (n w : Nat) : (s.withFetchWord n w).posvecV = s.posvecV := rfl
@[simp] theorem withFetchWord_busy (s : State) (n w : Nat) : (s.withFetchWord n w).busy = false := rfl
@[simp] theorem withFetchWord_lastErr (s : State) (n w : Nat) : (s.withFetchWord n w).lastErr = s.lastErr := rfl
@[simp] theorem withFetchWord_firstErr (s : State) (n w : Nat) : (s.withFetchWord n w).firstErr = s.firstErr := rfl
@[simp] theorem withFetchWord_errBlock (s : State) (n w : Nat) : (s.withFetchWord n w).errBlock = s.errBlock := rfl
@[simp] theorem withFetchWord_resOrig (s : State) (n w : Nat) : (s.withFetchWord n w).resOrig = s.resOrig := rfl
@[simp] theorem withFetchWord_resPos (s : State) (n w : Nat) : (s.withFetchWord n w).resPos = s.resPos := rfl
@[simp] theorem withFetchWord_resRecv (s : State) (n w : Nat) : (s.withFetchWord n w).resRecv = s.resRecv := rfl
@[simp] theorem withFetchWord_resCorr (s : State) (n w : Nat) : (s.withFetchWord n w).resCorr = s.resCorr := rfl
@[simp] theorem withFetchWord_aggOrig (s : State) (n w : Nat) : (s.withFetchWord n w).aggOrig = s.aggOrig := rfl
@[simp] theorem withFetchWord_aggCorr (s : State) (n w : Nat) : (s.withFetchWord n w).aggCorr = s.aggCorr := rfl
@[simp] theorem withFetchWord_aggStat (s : State) (n w : Nat) : (s.withFetchWord n w).aggStat = s.aggStat := rfl
@[simp] theorem withFetchWord_pending (s : State) (n w : Nat) : (s.withFetchWord n w).pending = issueAction n w :: s.pending := rfl
@[simp] theorem withFetchWord_reply (s : State) (n w : Nat) : (s.withFetchWord n w).reply = s.reply := rfl
@[simp] theorem withFetchWord_drawEra (s : State) (n w : Nat) : (s.withFetchWord n w).drawEra = s.drawEra := rfl

end Sys2Proof.Machine
end

