-- ==== Sys2Proof/Laws/Exec.lean ====
section
/-!
SUPPORT. Laws/Exec.lean: once for each shared operation and for exec, everything a command can do; the provers cite these
instead of unfolding the meanings.
-/

namespace Sys2Proof.Machine

open Sys2Proof.Safety

/-- A RUN raises one of its three faults, in their order, or stores the results of its inputs (R165, R207). -/
theorem execRun_cases (s : State) :
    (payloadOperand s = none ∧ execRun s = .next (raiseRunFault .missingInput 0#4 s)) ∨
    (∃ x, payloadOperand s = some x ∧ posvecOperand s = none ∧
      execRun s = .next (raiseRunFault .missingPositions 0#4 s)) ∨
    (∃ x q i, payloadOperand s = some x ∧ posvecOperand s = some q ∧ firstIllegalPos q = some i ∧
      execRun s = .next (raiseRunFault .invalidErrorPosition (BitVec.ofNat 4 i.val) s)) ∨
    (∃ x q, payloadOperand s = some x ∧ posvecOperand s = some q ∧ PositionsLegal q ∧
      execRun s = .next (complete (storeRun x q s))) := by
  unfold execRun
  cases hx : payloadOperand s with
  | none => simp
  | some x =>
    cases hq : posvecOperand s with
    | none => simp
    | some q =>
      cases hi : firstIllegalPos q with
      | some i => simp [hi]
      | none => simp [hi, firstIllegalPos_eq_none.mp hi]

/-- A unit command completes with a RESULT or raises MissingInput or InvalidErrorPosition with ERR_BLOCK 0. -/
def UnitEffect (i : Instr) (s : State) : Prop :=
  (∃ v, exec i s = .next (complete (setResult v s))) ∨
  (∃ code, (code = .missingInput ∨ code = .invalidErrorPosition) ∧ exec i s = .next (raiseFault code 0#4 s))

theorem unitEffect (i : Instr) (s : State) (h : unitCommand i = true) : UnitEffect i s := by
  cases i with
  | nop | run | clrerr => cases h
  | parity w => exact .inl ⟨_, rfl⟩
  | syndrome w => exact .inl ⟨_, rfl⟩
  | locate e => exact .inl ⟨_, rfl⟩
  | correct w => exact .inl ⟨_, rfl⟩
  | inject b p =>
    unfold UnitEffect
    simp only [exec, execInject]
    split
    · exact .inl ⟨_, rfl⟩
    · exact .inr ⟨_, .inr rfl, rfl⟩
  | process b p =>
    unfold UnitEffect
    simp only [exec, execProcess]
    split
    · exact .inl ⟨_, rfl⟩
    · exact .inr ⟨_, .inr rfl, rfl⟩
  | split idx =>
    unfold UnitEffect
    simp only [exec, execSplit]
    split
    · exact .inr ⟨_, .inl rfl, rfl⟩
    · exact .inl ⟨_, rfl⟩

/-- Everything a command can do: six forms of next state, and no fault or refusal of the model. -/
theorem exec_cases (i : Instr) (s : State) :
    (unitCommand i = true ∧ ∃ v, exec i s = .next (complete (setResult v s))) ∨
    (unitCommand i = true ∧ ∃ code, (code = .missingInput ∨ code = .invalidErrorPosition) ∧
      exec i s = .next (raiseFault code 0#4 s)) ∨
    (i = .nop ∧ exec i s = .next (complete s)) ∨
    (i = .clrerr ∧ exec i s = .next (complete (clearFirstErr s))) ∨
    (i = .run ∧ ∃ code blk,
      ((code = .missingInput ∨ code = .missingPositions) ∧ blk = 0#4 ∨ code = .invalidErrorPosition) ∧
      exec i s = .next (raiseRunFault code blk s)) ∨
    (i = .run ∧ ∃ x q, payloadOperand s = some x ∧ posvecOperand s = some q ∧ PositionsLegal q ∧
      exec i s = .next (complete (storeRun x q s))) := by
  by_cases h : unitCommand i = true
  · rcases unitEffect i s h with ⟨v, hv⟩ | ⟨code, hc, he⟩
    · exact .inl ⟨h, v, hv⟩
    · exact .inr (.inl ⟨h, code, hc, he⟩)
  · cases i with
    | nop => exact .inr (.inr (.inl ⟨rfl, rfl⟩))
    | clrerr => exact .inr (.inr (.inr (.inl ⟨rfl, rfl⟩)))
    | run =>
      refine .inr (.inr (.inr (.inr ?_)))
      rcases execRun_cases s with ⟨_, h⟩ | ⟨x, _, _, h⟩ | ⟨x, q, i, _, _, _, h⟩ | ⟨x, q, hx, hq, hl, h⟩
      · exact .inl ⟨rfl, _, _, .inl ⟨.inl rfl, rfl⟩, h⟩
      · exact .inl ⟨rfl, _, _, .inl ⟨.inr rfl, rfl⟩, h⟩
      · exact .inl ⟨rfl, _, _, .inr rfl, h⟩
      · exact .inr ⟨rfl, x, q, hx, hq, hl, h⟩
    | parity | syndrome | locate | correct | inject | process | split => exact absurd rfl h

end Sys2Proof.Machine
end

