-- ==== Sys2Proof/Laws/Host.lean ====
section
/-!
SUPPORT. Laws/Host.lean: Execute(w), the host's actions and the step: what each can do, said once.
-/

namespace Sys2Proof.Machine

/-- Execute(w) is exec of the decoded command, or IllegalCommand recorded (30_encoding.md R76). -/
theorem execute_cases (w : CmdWord) (s : State) :
    (∃ i, decode w = .ok i ∧ execute w s = exec i s) ∨
    (∃ r, decode w = .error r ∧ execute w s = .next (raiseFault .illegalCommand 0#4 s)) := by
  unfold execute
  cases h : decode w with
  | ok i => exact .inl ⟨i, rfl, rfl⟩
  | error r => exact .inr ⟨r, rfl, rfl⟩

theorem execute_of_decode {w : CmdWord} {i : Instr} (h : decode w = .ok i) (s : State) :
    execute w s = exec i s := by simp [execute, h]

theorem execute_of_reject {w : CmdWord} {r : Reject} (h : decode w = .error r) (s : State) :
    execute w s = .next (raiseFault .illegalCommand 0#4 s) := by simp [execute, h, faultWith]

theorem step_nil {s : State} (h : s.pending = []) : step s = .next s := by simp [step, hostStep, h]

theorem step_cons {s : State} {a : HostAction} {rest : List HostAction} (h : s.pending = a :: rest) :
    step s = act a { s with pending := rest } := by simp [step, hostStep, h]

theorem act_reset (s : State) : act .reset s = .next (hostReset s) := rfl

theorem act_read {r : Reg} {s : State} (hr : r ≠ .cmd) (hb : s.busy = false ∨ r = .status) :
    act (.read r r.width) s = .next (hostRead r s) := by
  have h1 : hostReadable r = true := by cases r <;> first | rfl | exact absurd rfl hr
  have h2 : ¬ (s.busy = true ∧ r ≠ .status) := by
    rintro ⟨hb', hs⟩
    rcases hb with h | h
    · simp [h] at hb'
    · exact hs h
  simp only [act, h1, h2]
  simp

theorem act_write_payload {s : State} (v : Payload) (hb : s.busy = false) :
    act (.write .payload 128 v) s = .next (hostWritePayload v s) := by
  simp [act, hostWritable, Reg.width, hb]

theorem act_write_posvec {s : State} (v : PosVec) (hb : s.busy = false) :
    act (.write .posvec 64 v) s = .next (hostWritePosvec v s) := by
  simp [act, hostWritable, Reg.width, hb]

theorem act_write_cmd {s : State} (w : CmdWord) (hb : s.busy = false) :
    act (.write .cmd 16 w) s = execute w (newEra s) := by
  simp [act, hostWritable, Reg.width, hb, hostWriteCmd]

/-- Every way one host action gives a next state: a reset, a read of a readable register, or one of the three writes. -/
theorem act_next_cases {a : HostAction} {s t : State} (h : act a s = .next t) :
    (a = .reset ∧ t = hostReset s) ∨
    (∃ r, r ≠ .cmd ∧ (s.busy = false ∨ r = .status) ∧ a = .read r r.width ∧ t = hostRead r s) ∨
    (s.busy = false ∧
      ((∃ v, a = .write .payload 128 v ∧ t = hostWritePayload v s) ∨
       (∃ v, a = .write .posvec 64 v ∧ t = hostWritePosvec v s) ∨
       (∃ w, a = .write .cmd 16 w ∧ execute w (newEra s) = .next t))) := by
  cases a with
  | reset => exact .inl ⟨rfl, by simpa [act, eq_comm] using h⟩
  | read r n =>
    refine .inr (.inl ?_)
    simp only [act] at h
    split at h
    · cases h
    split at h
    · cases h
    split at h
    · cases h
    next h1 h2 h3 =>
      obtain rfl : n = r.width := by simpa using h2
      refine ⟨r, ?_, ?_, rfl, by simpa [eq_comm] using h⟩
      · rintro rfl; exact h1 rfl
      · by_cases hs : r = .status
        · exact .inr hs
        · exact .inl (by simpa [hs] using h3)
  | write r n v =>
    refine .inr (.inr ?_)
    simp only [act] at h
    split at h
    · cases h
    split at h
    · cases h
    split at h
    · cases h
    next h1 h2 h3 =>
      obtain rfl : n = r.width := by simpa using h2
      refine ⟨by simpa using h3, ?_⟩
      cases r with
      | payload =>
        have e : BitVec.setWidth 128 v = v := BitVec.setWidth_eq (v : BitVec 128)
        exact .inl ⟨v, rfl, by simpa [eq_comm, e] using h⟩
      | posvec =>
        have e : BitVec.setWidth 64 v = v := BitVec.setWidth_eq (v : BitVec 64)
        exact .inr (.inl ⟨v, rfl, by simpa [eq_comm, e] using h⟩)
      | cmd =>
        have e : BitVec.setWidth 16 v = v := BitVec.setWidth_eq (v : BitVec 16)
        exact .inr (.inr ⟨v, rfl, by simpa [hostWriteCmd, e] using h⟩)
      | result | status | aggOrig | aggCorr | aggStat => cases h
      | resOrig i | resPos i | resRecv i | resCorr i => cases h

/-- Every way a step gives a next state; the state acted on has the action taken from `pending`. -/
theorem step_next_cases {s t : State} (h : step s = .next t) :
    (s.pending = [] ∧ t = s) ∨
    ∃ a rest, s.pending = a :: rest ∧ act a { s with pending := rest } = .next t := by
  cases hp : s.pending with
  | nil => exact .inl ⟨rfl, by simpa [step_nil hp, eq_comm] using h⟩
  | cons a rest => exact .inr ⟨a, rest, rfl, by rw [← step_cons hp]; exact h⟩

/-- A run of k + 1 steps is one step and a run of k steps. -/
theorem run_succ_of_step (M : Host.Core) {s t : M.State} (h : M.step s = .next t) (k : Nat) :
    M.run (k + 1) s = M.run k t := by simp only [Host.Core.run, h]

theorem core_run_succ {s t : State} (h : step s = .next t) (k : Nat) :
    Host.Core.run core (k + 1) s = Host.Core.run core k t := run_succ_of_step core h k

/-- A read's value does not depend on what the host will do next, nor on the last reply. -/
theorem readValue_hostSide (s : State) (rep : Option Reply) (rest : List HostAction) (r : Reg) :
    readValue { s with reply := rep, pending := rest } r = readValue s r := by cases r <;> rfl

/-- The word placed by withFetchWord is the next step's command (log 12). -/
theorem step_withFetchWord (s : State) (n w : Nat) :
    step (s.withFetchWord n w) = execute (BitVec.ofNat 16 (w % 2 ^ n)) (newEra { s with busy := false }) := by
  have h : (s.withFetchWord n w).pending = issueAction n w :: s.pending := rfl
  rw [step_cons h, issueAction, act_write_cmd _ rfl]
  rfl

end Sys2Proof.Machine
end

