-- ==== Sys2Proof/Laws/PerInstr.lean ====
section
/-!
SUPPORT. Laws/PerInstr.lean: statements made per constructor of Instr.
-/

/-- The command's word has its opcode in OPC and passes the mask and match of its row (30_encoding.md R75): no bit its row
requires to be 0 is ever set. -/
def Sys2Proof.Laws.EncodesLegally.Statement (i : Sys2Proof.Instr) : Prop :=
  Sys2Proof.opcField (Sys2Proof.encode i) = i.opcode ∧
    Sys2Proof.encode i &&& Sys2Proof.maskOf i.opcode.toNat = Sys2Proof.matchOf i.opcode.toNat

namespace Sys2Proof.Laws.EncodesLegally

/-- The shape of every row: its mask has all of OPC, and its operand fields have no bit under the mask. -/
theorem of_fields {i : Instr} (opc : BitVec 4) (md : BitVec 8) (mp : BitVec 4) (hopc : i.opcode = opc)
    (hmask : maskOf opc.toNat = (md ++ mp) ++ 0xF#4) (hmatch : matchOf opc.toNat = (0#8 ++ 0#4) ++ opc)
    (hd : i.dOperand &&& md = 0#8) (hp : i.pOperand &&& mp = 0#4) : Statement i := by
  refine ⟨opcField_encode i, ?_⟩
  rw [hopc]
  refine (word_and_eq _ md 0#8 _ mp 0#4 _ 0xF#4 opc _ _ hmask hmatch).mpr ⟨hd, hp, ?_⟩
  rw [hopc, nibble_and_ones]

theorem word7_and_top : ∀ w : Word7, w.setWidth 8 &&& 0x80#8 = 0#8 := by decide

theorem syndrome_and_top : ∀ e : Syndrome, e.setWidth 8 &&& 0xF8#8 = 0#8 := by decide

theorem nop : Statement .nop := of_fields 0x0#4 0xFF#8 0xF#4 rfl (by decide) (by decide) BitVec.zero_and BitVec.zero_and

theorem parity (w : Word7) : Statement (.parity w) :=
  of_fields 0x1#4 0x80#8 0xF#4 rfl (by decide) (by decide) (word7_and_top w) BitVec.zero_and

theorem syndrome (w : Word7) : Statement (.syndrome w) :=
  of_fields 0x2#4 0x80#8 0xF#4 rfl (by decide) (by decide) (word7_and_top w) BitVec.zero_and

theorem locate (e : Syndrome) : Statement (.locate e) :=
  of_fields 0x3#4 0xF8#8 0xF#4 rfl (by decide) (by decide) (syndrome_and_top e) BitVec.zero_and

theorem correct (w : Word7) : Statement (.correct w) :=
  of_fields 0x4#4 0x80#8 0xF#4 rfl (by decide) (by decide) (word7_and_top w) BitVec.zero_and

theorem inject (b : Block) (p : Nibble) : Statement (.inject b p) :=
  of_fields 0x5#4 0#8 0#4 rfl (by decide) (by decide) BitVec.and_zero BitVec.and_zero

theorem process (b : Block) (p : Nibble) : Statement (.process b p) :=
  of_fields 0x6#4 0#8 0#4 rfl (by decide) (by decide) BitVec.and_zero BitVec.and_zero

theorem split (idx : Nibble) : Statement (.split idx) :=
  of_fields 0x7#4 0xFF#8 0#4 rfl (by decide) (by decide) BitVec.zero_and BitVec.and_zero

theorem run : Statement .run := of_fields 0x8#4 0xFF#8 0xF#4 rfl (by decide) (by decide) BitVec.zero_and BitVec.zero_and

theorem clrerr : Statement .clrerr := of_fields 0x9#4 0xFF#8 0xF#4 rfl (by decide) (by decide) BitVec.zero_and BitVec.zero_and

end Sys2Proof.Laws.EncodesLegally
end

