-- ==== Sys2Proof/Tests/Slice0.lean ====
section
/-!
SUPPORT. Tests/Slice0.lean: tests on fixed values, each expected value taken from spec/95_test_vectors.md or from the rule
its comment names, and for every obligation with hypotheses a named witness that meets them.
-/

namespace Sys2Proof.Tests

open Sys2Proof.Machine Sys2Proof.Safety Sys2Proof.Claim

/-! ## Helpers -/

/-- The STATUS word after an outcome, if there is a next state. -/
def statusOf (o : Host.Outcome State Fault Refusal) : Option (BitVec 32) :=
  match o with
  | .next t => some (statusWord t)
  | .fault _ => none
  | .refused _ => none

/-- STATUS and RESULT after an outcome. -/
def endOf (o : Host.Outcome State Fault Refusal) : Option (BitVec 32 × BitVec 16) :=
  match o with
  | .next t => some (statusWord t, t.result)
  | .fault _ => none
  | .refused _ => none

/-- AGG_CORR and AGG_STAT after an outcome. -/
def aggOf (o : Host.Outcome State Fault Refusal) : Option (Option (BitVec 128) × Option (BitVec 16)) :=
  match o with
  | .next t => some (t.aggCorr, t.aggStat)
  | .fault _ => none
  | .refused _ => none

/-- The reset state with both inputs written. -/
def withInputs (x : Payload) (q : PosVec) : State :=
  { State.reset with payload := some x, payloadV := true, posvec := some q, posvecV := true }

/-- The reset state with PAYLOAD written. -/
def withPayload (x : Payload) : State := { State.reset with payload := some x, payloadV := true }

/-- The reset state with these host actions to come. -/
def awaiting (as : List HostAction) : State := { State.reset with pending := as }

/-- The POSVEC of scenario 1 (95_test_vectors.md E3). -/
def scenarioPositions : PosVec := 0x8765432187654321#64

/-- The mixed payload (95_test_vectors.md section 2.7). -/
def mixedPayload : Payload := 0xFFEEDDCCBBAA99887766554433221100#128

/-- The state after the RUN of scenario 1. -/
def ranScenario : State := complete (storeRun 0#128 scenarioPositions (withInputs 0#128 scenarioPositions))

/-- The state after `INJECT "00000000", 0` from reset (95_test_vectors.md section 2.8). -/
def afterBadInject : State := faulted 3#4 0#4 State.reset

/-! ## Assembler lines the assembler refuses (30_encoding.md R79, R80), and their accepted neighbours -/

theorem test_refuses_word_of_6_characters :
    (AsmLine.parity (.quoted ['0', '0', '1', '0', '1', '1'])).wellFormed = false := by decide

theorem test_refuses_word_with_other_character :
    (AsmLine.syndrome (.quoted ['1', '0', '0', '2', '0', '0', '0'])).wellFormed = false := by decide

theorem test_refuses_word_of_8_bits_in_hex : (AsmLine.correct (.hex 0x80)).wellFormed = false := by decide

theorem test_refuses_locate_8 : (AsmLine.locate 8).wellFormed = false := by decide

theorem test_refuses_inject_block_of_7_characters :
    (AsmLine.inject (.quoted ['0', '0', '0', '0', '0', '0', '0']) 8).wellFormed = false := by decide

theorem test_refuses_inject_position_16 : (AsmLine.inject (.hex 0) 16).wellFormed = false := by decide

theorem test_refuses_process_block_of_9_bits : (AsmLine.process (.hex 0x100) 1).wellFormed = false := by decide

theorem test_refuses_process_position_16 : (AsmLine.process (.hex 0) 16).wellFormed = false := by decide

theorem test_refuses_split_16 : (AsmLine.split 16).wellFormed = false := by decide

set_option maxRecDepth 20000 in
theorem test_refuses_payload_of_127_characters :
    (AsmLine.writePayload (.quoted (List.replicate 127 '0'))).wellFormed = false := by decide

theorem test_refuses_15_positions : (AsmLine.writePosvec (List.replicate 15 1)).wellFormed = false := by decide

theorem test_refuses_position_entry_16 :
    (AsmLine.writePosvec (16 :: List.replicate 15 1)).wellFormed = false := by decide

theorem test_refuses_read_of_cmd : (AsmLine.read .cmd).wellFormed = false := by decide

/-- "An out-of-range p (0 or 9 to 15) assembles and faults at execution" (R79). -/
theorem test_accepts_range_ends :
    (AsmLine.locate 7).wellFormed = true ∧ (AsmLine.inject (.hex 0xFF) 15).wellFormed = true ∧
      (AsmLine.process (.hex 0) 0).wellFormed = true ∧ (AsmLine.split 15).wellFormed = true ∧
      (AsmLine.parity (.hex 0x7F)).wellFormed = true := by decide

/-! ## The assembler's examples (30_encoding.md R79, 95_test_vectors.md P2) -/

theorem test_assembles_parity :
    assembleWord (.parity (.quoted ['0', '0', '1', '0', '1', '1', '0'])) = some 0x3401#16 := by decide

/-- `0x34` is the same word as `"0010110"` (R79). -/
theorem test_assembles_parity_from_hex : assembleWord (.parity (.hex 0x34)) = some 0x3401#16 := by decide

theorem test_assembles_process :
    assembleWord (.process (.quoted ['0', '1', '0', '1', '0', '1', '0', '1']) 8) = some 0xAA86#16 := by decide

theorem test_assembles_locate_and_split :
    assembleWord (.locate 5) = some 0x0503#16 ∧ assembleWord (.split 15) = some 0x00F7#16 := by decide

theorem test_assembles_nothing_for_host_lines : assembleWord (.read .status) = none := by decide

/-- WRITE POSVEC, [1,2,3,4,5,6,7,8,8,7,6,5,4,3,2,1] writes 0x1234_5678_8765_4321 (95_test_vectors.md section 2.7). -/
theorem test_posvec_line :
    lineAction (.writePosvec [1, 2, 3, 4, 5, 6, 7, 8, 8, 7, 6, 5, 4, 3, 2, 1]) =
      some (.write .posvec 64 0x1234567887654321#64) := by decide

/-! ## Words written out bit by bit from 30_encoding.md R70 to R75 decode to their commands -/

theorem test_decode_nop : decode 0b0000000000000000#16 = .ok .nop := by decide

/-- D = 0 0110100 (W = 0x34), P = 0000, OPC = 0001. -/
theorem test_decode_parity : decode 0b0011010000000001#16 = .ok (.parity 0b0110100#7) := by decide

/-- D = 0 1000000 (W = 0x40), P = 0000, OPC = 0010. -/
theorem test_decode_syndrome : decode 0b0100000000000010#16 = .ok (.syndrome 0b1000000#7) := by decide

/-- D = 00000 110 (S = 6), P = 0000, OPC = 0011. -/
theorem test_decode_locate : decode 0b0000011000000011#16 = .ok (.locate 0b110#3) := by decide

/-- D = 0 1000110 (W = 0x46), P = 0000, OPC = 0100. -/
theorem test_decode_correct : decode 0b0100011000000100#16 = .ok (.correct 0b1000110#7) := by decide

/-- D = 10101010 (B = 0xAA), P = 0001, OPC = 0101. -/
theorem test_decode_inject : decode 0b1010101000010101#16 = .ok (.inject 0b10101010#8 0b0001#4) := by decide

/-- D = 11100110 (B = 0xE6), P = 0010, OPC = 0110. -/
theorem test_decode_process : decode 0b1110011000100110#16 = .ok (.process 0b11100110#8 0b0010#4) := by decide

/-- D = 00000000, P = 1101 (I = 13), OPC = 0111. -/
theorem test_decode_split : decode 0b0000000011010111#16 = .ok (.split 0b1101#4) := by decide

theorem test_decode_run : decode 0b0000000000001000#16 = .ok .run := by decide

theorem test_decode_clrerr : decode 0b0000000000001001#16 = .ok .clrerr := by decide

/-- Reserved opcodes and reserved field bits (95_test_vectors.md section 2.9), by name. -/
theorem test_decode_refuses :
    decode 0x000A#16 = .error .reservedOpcode ∧ decode 0xFFFF#16 = .error .reservedOpcode ∧
      decode 0x0010#16 = .error .reservedFieldBit ∧ decode 0x8001#16 = .error .reservedFieldBit ∧
      decode 0x0012#16 = .error .reservedFieldBit ∧ decode 0x0803#16 = .error .reservedFieldBit ∧
      decode 0x8004#16 = .error .reservedFieldBit ∧ decode 0x0107#16 = .error .reservedFieldBit ∧
      decode 0x0108#16 = .error .reservedFieldBit ∧ decode 0x1009#16 = .error .reservedFieldBit := by decide

theorem test_decode_table_word :
    decodeTableWord 16 0x00F7 = some (.split 15#4) ∧ decodeTableWord 16 0x000C = none := by decide

/-! ## One command, one step (95_test_vectors.md sections 2.1 to 2.9) -/

theorem test_nop_from_reset : endOf (execute 0x0000#16 State.reset) = some (0x00000001#32, 0x0000#16) := by decide

theorem test_nop_keeps_first_err : statusOf (execute 0x0000#16 afterBadInject) = some 0x00000301#32 := by decide

/-- P1 line 1. -/
theorem test_parity : endOf (execute 0x6401#16 State.reset) = some (0x00000001#32, 0x0002#16) := by decide

theorem test_parity_reserved_bit : endOf (execute 0x8001#16 State.reset) = some (0x00000550#32, 0x0000#16) := by decide

/-- P4 line 1. -/
theorem test_syndrome : endOf (execute 0x2402#16 State.reset) = some (0x00000001#32, 0x0005#16) := by decide

/-- Position 7 alone has the largest syndrome (section 2.1). -/
theorem test_syndrome_largest : endOf (execute 0x4002#16 State.reset) = some (0x00000001#32, 0x0007#16) := by decide

theorem test_locate_7 : endOf (execute 0x0703#16 State.reset) = some (0x00000001#32, 0x0040#16) := by decide

theorem test_locate_0 : endOf (execute 0x0003#16 State.reset) = some (0x00000001#32, 0x0000#16) := by decide

/-- Section 2.4. -/
theorem test_correct_restores : endOf (execute 0x4604#16 State.reset) = some (0x00000001#32, 0x0666#16) := by decide

theorem test_correct_codeword : endOf (execute 0x6604#16 State.reset) = some (0x00000001#32, 0x0066#16) := by decide

theorem test_inject_7 : endOf (execute 0x7F75#16 State.reset) = some (0x00000001#32, 0x003F#16) := by decide

theorem test_inject_9_faults : endOf (execute 0x0095#16 State.reset) = some (0x00000330#32, 0x0000#16) := by decide

/-- Section 2.5, two bits wrong. -/
theorem test_process_two_bits_wrong :
    endOf (execute 0x1126#16 State.reset) = some (0x00000001#32, 0x3313#16) := by decide

theorem test_process_extension_bit :
    endOf (execute 0x8186#16 State.reset) = some (0x00000001#32, 0x8001#16) := by decide

theorem test_split_15 :
    endOf (execute 0x00F7#16 (withPayload mixedPayload)) = some (0x00000005#32, 0x00FF#16) := by decide

theorem test_split_missing_input : endOf (execute 0x0007#16 State.reset) = some (0x00000110#32, 0x0000#16) := by decide

set_option maxRecDepth 20000 in
/-- Section 2.7, the mixed run. -/
theorem test_run_mixed :
    aggOf (execute 0x0008#16 (withInputs mixedPayload 0x1234567887654321#64)) =
      some (some 0xFFCC99CCAAAA99807F66555533663300#128, some 0x0072#16) := by decide

/-- Section 2.7: POS_3 = 0 and POS_9 = 9; ERR_BLOCK is the lowest. -/
theorem test_run_illegal_positions :
    statusOf (execute 0x0008#16 (withInputs 0#128 0x8765439187650321#64)) = some 0x0000333C#32 := by decide

theorem test_clrerr : statusOf (execute 0x0009#16 afterBadInject) = some 0x00000001#32 := by decide

theorem test_clrerr_illegal : statusOf (execute 0x1009#16 State.reset) = some 0x00000550#32 := by decide

/-- P3 line 9: an illegally encoded RUN keeps RUN_VALID. -/
theorem test_illegal_run_keeps_run_valid :
    statusOf (execute 0x0108#16 ranScenario) = some 0x0000055E#32 := by decide

/-! ## The host's actions -/

/-- The placed word is the first thing to run after reset (20_memory.md R58). -/
theorem test_step_runs_placed_word :
    endOf (step (State.reset.withFetchWord 16 0x0085)) = some (0x00000001#32, 0x0080#16) := by decide

/-- P2 line 1: STATUS after the first WRITE PAYLOAD. -/
theorem test_write_payload :
    statusOf (step (awaiting [.write .payload 128 mixedPayload])) = some 0x00000004#32 := by decide

theorem test_reset_action :
    statusOf (step { ranScenario with pending := [.reset] }) = some 0x00000000#32 := by decide

theorem test_refuses_narrow_write :
    step (awaiting [.write .posvec 32 0#32]) = .refused .wrongWidth := rfl

set_option maxRecDepth 20000 in
/-- 00_scope.md R12, 20_memory.md R65: character j is bit j. -/
theorem test_shell_input_bit_order :
    shellInput ('1' :: List.replicate 127 '0') = .ok 0x1#128 := by rfl

set_option maxRecDepth 20000 in
theorem test_shell_input_errors :
    shellInput [] = .error .missingInput ∧ shellInput (List.replicate 127 '0') = .error .malformedInput ∧
      shellInput ('2' :: List.replicate 127 '0') = .error .malformedInput := ⟨rfl, rfl, rfl⟩

/-! ## Witnesses: for every obligation with hypotheses, a state and operands that meet them -/

/-- EncodeOfDecodeIsTheWord. -/
theorem witness_decodes : decode 0x00F7#16 = .ok (.split 15#4) := by decide

/-- The reserved opcodes at both ends of their range. -/
theorem witness_illegal_opcode : illegalWord 0x000A#16 ∧ illegalWord 0xFFFF#16 :=
  ⟨.inl (by decide), .inl (by decide)⟩

/-- The lowest bit above each kind of operand: NOP with P = 1, PARITY with D[7], LOCATE with D[3], SPLIT with D = 1. -/
theorem witness_illegal_field :
    illegalWord 0x0010#16 ∧ illegalWord 0x8001#16 ∧ illegalWord 0x0803#16 ∧ illegalWord 0x0107#16 :=
  ⟨.inr ⟨0xFFFF#16, by decide⟩, .inr ⟨0x80FF#16, by decide⟩, .inr ⟨0xF8FF#16, by decide⟩, .inr ⟨0xFF0F#16, by decide⟩⟩

/-- IllegalWordsRaiseIllegalCommand, second clause: LOCATE 7, the nearest legal neighbour of 0x0803. -/
theorem witness_legal_word : ¬ illegalWord 0x0703#16 ∧ ∃ t, execute 0x0703#16 State.reset = .next t := by
  refine ⟨?_, _, rfl⟩
  rintro (h | ⟨mask, h, h'⟩)
  · exact absurd h (by decide)
  · obtain rfl : 0xF8FF#16 = mask := Option.some.inj h
    exact absurd h' (by decide)

/-- AcceptedLinesDecodeToTheirCommands: the largest operands, and the smallest refused one. -/
theorem witness_lines :
    assembleWord (.process (.hex 0xFF) 15) = some 0xFFF6#16 ∧ (AsmLine.locate 8).wellFormed = false ∧ 7 < 8 ∧
      15 < 16 := by decide

/-- AcceptedLinesDecodeToTheirCommands: the quoted word and the block of R79's examples, and the largest hexadecimal ones. -/
theorem witness_operands :
    denotes (.quoted ['0', '0', '1', '0', '1', '1', '0']) 0x34#7 ∧
      denotes (.quoted ['0', '1', '0', '1', '0', '1', '0', '1']) 0xAA#8 ∧ denotes (.hex 0x7F) 0x7F#7 ∧
      denotes (.hex 0xFF) 0xFF#8 := by
  refine ⟨⟨rfl, ?_⟩, ⟨rfl, ?_⟩, rfl, rfl⟩ <;> decide

/-- AcceptedLinesDecodeToTheirCommands: operands next to the accepted ones denote nothing: one value too large, one
character too many, one character that is no bit. -/
theorem witness_refused_operands :
    (∀ v : Word7, ¬ denotes (.hex 0x80) v) ∧ (∀ v : Block, ¬ denotes (.hex 0x100) v) ∧
      (∀ v : Word7, ¬ denotes (.quoted ['0', '0', '1', '0', '1', '1', '0', '0']) v) ∧
      (∀ v : Word7, ¬ denotes (.quoted ['2', '0', '1', '0', '1', '1', '0']) v) := by
  refine ⟨fun v h => ?_, fun v h => ?_, fun v h => absurd h.1 (by decide), fun v h => ?_⟩
  · have := v.isLt
    simp only [denotes] at h
    omega
  · have := v.isLt
    simp only [denotes] at h
    omega
  · have h0 := h.2 0 (by decide)
    split at h0 <;> exact absurd h0 (by decide)

/-- AcceptedLinesDecodeToTheirCommands: the position lists at the ends of the entries' range, and the refused neighbours. -/
theorem witness_position_lists :
    ((List.replicate 16 15).length = 16 ∧ ∀ p ∈ List.replicate 16 15, p < 16) ∧
      (List.replicate 17 1).length ≠ 16 ∧ ∃ p ∈ 16 :: List.replicate 15 1, 16 ≤ p := by decide

set_option maxRecDepth 20000 in
/-- ShellStringsKeepTheBitOrder: an accepted string whose last character is set. -/
theorem witness_shell_input :
    shellInput (List.replicate 127 '0' ++ ['1']) = .ok 0x80000000000000000000000000000000#128 := by rfl

/-- StepRunsTheDecodedCommand. -/
theorem witness_step_runs :
    (awaiting [.write .cmd 16 0x0008#16]).pending = .write .cmd 16 0x0008#16 :: [] ∧
      (awaiting [.write .cmd 16 0x0008#16]).busy = false ∧ decode 0x0008#16 = .ok .run := by decide

/-- StepRecordsAnIllegalWord. -/
theorem witness_step_illegal :
    (awaiting [.write .cmd 16 0x000A#16]).pending = .write .cmd 16 0x000A#16 :: [] ∧
      (awaiting [.write .cmd 16 0x000A#16]).busy = false ∧ illegalWord 0x000A#16 :=
  ⟨rfl, rfl, witness_illegal_opcode.1⟩

/-- HostWriteOfPayload, at the largest value. -/
theorem witness_write_payload :
    (awaiting [.write .payload 128 (BitVec.allOnes 128)]).pending = [.write .payload 128 (BitVec.allOnes 128)] ∧
      (awaiting [.write .payload 128 (BitVec.allOnes 128)]).busy = false := ⟨rfl, rfl⟩

/-- HostWriteOfPosvec, with no legal position in it. -/
theorem witness_write_posvec :
    (awaiting [.write .posvec 64 0#64]).pending = [.write .posvec 64 0#64] ∧
      (awaiting [.write .posvec 64 0#64]).busy = false := by decide

/-- HostReadReturnsTheValueHeld, first clause: with BUSY = 0, and of STATUS with BUSY = 1. -/
theorem witness_read :
    (awaiting [.read .aggStat 16]).pending = .read .aggStat (Reg.width .aggStat) :: [] ∧ Reg.aggStat ≠ .cmd ∧
      (awaiting [.read .aggStat 16]).busy = false ∧
      ({ awaiting [.read .status 32] with busy := true } : State).pending = .read .status (Reg.width .status) :: [] := by
  decide

set_option maxRecDepth 20000 in
/-- HostReadReturnsTheValueHeld: after scenario 1 the inputs, the last bank entries and the AGG registers hold values. -/
theorem witness_registers_hold_values :
    ranScenario.payload = some 0#128 ∧ ranScenario.posvec = some scenarioPositions ∧
      ranScenario.resOrig[(15 : BlockIndex).val] = some 0x00#8 ∧ ranScenario.resPos[(15 : BlockIndex).val] = some 8#4 ∧
      ranScenario.resRecv[(15 : BlockIndex).val] = some 0x80#8 ∧
      ranScenario.resCorr[(15 : BlockIndex).val] = some 0x00#8 ∧ ranScenario.aggOrig = some 0#128 ∧
      ranScenario.aggCorr = some 0#128 ∧ ranScenario.aggStat = some 0x0180#16 := by decide

/-- HostReadReturnsTheValueHeld, last clause: a register that holds no value. -/
theorem witness_register_without_value : regValue State.reset .aggStat = none := rfl

/-- ReadsWithNoWriteBetweenAgree, with a read of STATUS in between. -/
theorem witness_two_reads :
    Reg.aggCorr ≠ .cmd ∧ (∀ q ∈ [Reg.status], q ≠ .cmd) ∧
      (awaiting [.read .aggCorr 128, .read .status 32, .read .aggCorr 128]).busy = false ∧
      (awaiting [.read .aggCorr 128, .read .status 32, .read .aggCorr 128]).pending =
        .read .aggCorr (Reg.width .aggCorr) :: ([Reg.status].map fun q => .read q q.width) ++
          .read .aggCorr (Reg.width .aggCorr) :: [] := by decide

/-- StatusLayout, last clause: the ends of the reserved range. -/
theorem witness_reserved_status_bits : 17 ≤ 17 ∧ 17 ≤ 31 := by decide

/-- StatusIsReadOnly, at the register's own width. -/
theorem witness_write_status :
    (awaiting [.write .status 32 0#32]).pending = .write .status 32 0#32 :: [] := by decide

/-- OnlyUnlistedActionsAreRefused: a refused read, a refused write and a write of the wrong width. -/
theorem witness_unlisted :
    step (awaiting [.read .cmd 16]) = .refused .readOfWriteOnly ∧
      step (awaiting [.write .result 16 0#16]) = .refused .writeOfReadOnly ∧
      step (awaiting [.write .cmd 15 0#15]) = .refused .wrongWidth := ⟨rfl, rfl, rfl⟩

/-- NoMoveWhileBusy. -/
theorem witness_busy :
    ({ awaiting [.write .cmd 16 0#16] with busy := true } : State).pending = .write .cmd 16 0#16 :: [] ∧
      ({ awaiting [.write .cmd 16 0#16] with busy := true } : State).busy = true ∧
      listedAction (.write .cmd 16 0#16) = true ∧ HostAction.write .cmd 16 0#16 ≠ .reset ∧
      HostAction.write .cmd 16 0#16 ≠ .read .status 32 := by decide

/-- EveryHostSequenceIsTaken: a whole run of the source with its first read. -/
theorem witness_host_sequence :
    (awaiting (runActions 0#128 scenarioPositions ++ [.read .status 32])).busy = false ∧
      ∀ a ∈ (awaiting (runActions 0#128 scenarioPositions ++ [.read .status 32])).pending, listedAction a = true := by
  decide

/-- IdleCoreKeepsItsState. -/
theorem witness_idle : State.reset.pending = [] := rfl

/-- ResetLeavesTheResetState, second clause: a reset of a machine that has run. -/
theorem witness_reset : ({ ranScenario with pending := [.reset] } : State).pending = .reset :: [] := rfl

/-- SyndromeIsLinear, SyndromeGuarantee and CorrectorLaws: the last position and a codeword. -/
theorem witness_codeword_and_position :
    Codeword 0x66#7 ∧ (7#3 : BitVec 3) ≠ 0#3 ∧ syndrome7 0x66#7 = 0#3 := ⟨rfl, by decide, rfl⟩

/-- TheSixteenCodewords: the third clause's premises, and the codeword nearest to 0x46. -/
theorem witness_stored_parity :
    (0x66#7).getLsbD 0 = (parity7 0x66#7).getLsbD 0 ∧ (0x66#7).getLsbD 1 = (parity7 0x66#7).getLsbD 1 ∧
      (0x66#7).getLsbD 3 = (parity7 0x66#7).getLsbD 2 ∧ popcount (0x46#7 ^^^ 0x66#7) ≤ 1 := by decide

/-- InjectorFlipsOneBit, InjectCommand, ProcessCommand: the ends of the legal range (8, and 7 for the 7-bit use). -/
theorem witness_legal_position_ends :
    (1 ≤ (1#4).toNat ∧ (1#4).toNat ≤ 8) ∧ (1 ≤ (8#4).toNat ∧ (8#4).toNat ≤ 8) ∧
      (1 ≤ (7#4).toNat ∧ (7#4).toNat ≤ 7) := by decide

/-- InjectCommand, ProcessCommand, FaultPriority: the illegal positions next to the legal range, and the largest. -/
theorem witness_illegal_position_ends :
    ((0#4).toNat < 1 ∨ 8 < (0#4).toNat) ∧ ((9#4).toNat < 1 ∨ 8 < (9#4).toNat) ∧
      ((15#4).toNat < 1 ∨ 8 < (15#4).toNat) := by decide

/-- BlockProcessorLaws: a codeword block; and the three cases of a block that is none (95_test_vectors.md section 2.5). -/
theorem witness_block_cases :
    syndrome7 ((0x34#8).extractLsb' 0 7) = 0#3 ∧ syndrome7 ((0x01#8).extractLsb' 0 7) ≠ 0#3 ∧
      (1#4).toNat = (syndrome7 ((0x01#8).extractLsb' 0 7)).toNat ∧
      (5#4).toNat ≠ (syndrome7 ((0x01#8).extractLsb' 0 7)).toNat := by decide

/-- MatchCountArithmetic, RunCommand, WholeRunFromAnyIdleState: sixteen legal positions. -/
theorem witness_positions_legal : PositionsLegal scenarioPositions ∧ PositionsLegal 0x8888888888888888#64 := by
  unfold PositionsLegal
  decide

/-- The fault clauses of the command statements: one reserved bit of P, and the lowest reserved bit of D. -/
theorem witness_reserved_bits :
    ((1#4 : BitVec 4) ≠ 0#4 ∨ (0#8 : BitVec 8) ≠ 0#8) ∧ ((0#4 : BitVec 4) ≠ 0#4 ∨ (0x80#8).getLsbD 7 = true) ∧
      ((0#4 : BitVec 4) ≠ 0#4 ∨ 8 ≤ (0x08#8).toNat) ∧ (0x01#8 : BitVec 8) ≠ 0#8 := by decide

/-- NopCommand, last clause. -/
theorem witness_after_bad_inject :
    afterBadInject.lastOk = false ∧ afterBadInject.lastErr = 3#4 ∧ afterBadInject.firstErr = 3#4 := by decide

/-- ParityCommand: two words that differ in W[0], W[1] and W[3]. -/
theorem witness_parity_ignores : (0x7F#7) &&& 0x74#7 = (0x74#7) &&& 0x74#7 := by decide

/-- SplitCommand, RunCommand: PAYLOAD written, and not. -/
theorem witness_payload_written :
    (withPayload mixedPayload).payloadV = true ∧ (withPayload mixedPayload).payload = some mixedPayload ∧
      (withPayload mixedPayload).posvecV = false ∧ State.reset.payloadV = false := by decide

/-- RunCommand and FaultPriority: the illegal positions POS_3 = 0 and POS_9 = 9 of section 2.7, the lowest being 3. -/
theorem witness_lowest_illegal_position :
    ((posField 0x8765439187650321#64 (3 : BlockIndex)).toNat < 1 ∨
        8 < (posField 0x8765439187650321#64 (3 : BlockIndex)).toNat) ∧
      ∀ j : BlockIndex, j < 3 →
        1 ≤ (posField 0x8765439187650321#64 j).toNat ∧ (posField 0x8765439187650321#64 j).toNat ≤ 8 := by decide

/-- RunCommand: POS_15 alone illegal, the largest value. -/
theorem witness_last_illegal_position :
    8 < (posField 0xF765432187654321#64 (15 : BlockIndex)).toNat ∧
      ∀ j : BlockIndex, j < 15 →
        1 ≤ (posField 0xF765432187654321#64 j).toNat ∧ (posField 0xF765432187654321#64 j).toNat ≤ 8 := by decide

/-- RunCommand: both inputs written, with the payload and the positions of scenario 1. -/
theorem witness_inputs_written :
    (withInputs 0#128 scenarioPositions).payloadV = true ∧
      (withInputs 0#128 scenarioPositions).payload = some 0#128 ∧
      (withInputs 0#128 scenarioPositions).posvecV = true ∧
      (withInputs 0#128 scenarioPositions).posvec = some 0x8765432187654321#64 := by decide

/-- ClrerrCommand, last clause. -/
theorem witness_status_330 : statusWord afterBadInject = 0x00000330#32 := by decide

/-- EveryStepKeepsTheInvariant: the reset state meets it and steps. -/
theorem witness_invariant : CoreInvariant State.reset ∧ step State.reset = .next State.reset := by
  refine ⟨⟨⟨rfl, rfl⟩, ⟨rfl, .inl rfl, .inl rfl, fun _ => rfl, fun h => absurd rfl h, fun h => absurd rfl h⟩,
    .inl ⟨⟨?_, rfl, rfl, rfl⟩, rfl⟩⟩, rfl⟩
  decide

/-- FaultWritesOnlyStatus, FirstErrKeepsTheFirstFault: a fault of RUN, with FIRST_ERR 0 and not 0 before it. -/
theorem witness_fault :
    execute runWord State.reset = .next (runFaulted 1#4 0#4 State.reset) ∧
      (runFaulted 1#4 0#4 State.reset).lastOk = false ∧ State.reset.firstErr = 0#4 ∧
      execute runWord afterBadInject = .next (runFaulted 1#4 0#4 afterBadInject) ∧
      (runFaulted 1#4 0#4 afterBadInject).lastOk = false ∧ afterBadInject.firstErr ≠ 0#4 :=
  ⟨rfl, rfl, rfl, rfl, rfl, by decide⟩

/-- CompletionFields, CommandsNeverWriteTheInputs: a command that completes. -/
theorem witness_completes :
    exec .nop State.reset = .next (completed State.reset) ∧ (completed State.reset).lastOk = true ∧
      Instr.nop ≠ .clrerr ∧ Instr.nop ≠ .run ∧ execute 0x0000#16 State.reset = .next (completed State.reset) :=
  ⟨rfl, rfl, by decide, by decide, rfl⟩

/-- OnlyCompletedUnitCommandsWriteResult: a unit command that completes over any RESULT, a command of the other kind, a
word that decodes to nothing, and a step that issues no command. -/
theorem witness_result :
    unitCommand (.locate 7#3) = true ∧
      exec (.locate 7#3) State.reset = .next (completedWith 0x0040#16 State.reset) ∧
      (completedWith 0x0040#16 State.reset).lastOk = true ∧
      exec (.locate 7#3) { State.reset with result := 0xFFFF#16 } = .next (completedWith 0x0040#16 State.reset) ∧
      unitCommand .nop = false ∧ (resultBits (.locate 7#3)).getLsbD 7 = false ∧
      decode 0x000A#16 = .error .reservedOpcode ∧
      execute 0x000A#16 State.reset = .next (faulted 5#4 0#4 State.reset) ∧
      State.reset.pending.head? ≠ some .reset ∧
      ∀ w, State.reset.pending.head? ≠ some (.write .cmd 16 w) :=
  ⟨rfl, rfl, rfl, rfl, rfl, by decide, by decide, rfl, by decide, fun _ h => by cases h⟩

/-- OnlyRunWritesTheBanks: a host write of PAYLOAD after a run. -/
theorem witness_write_after_run :
    (∃ t, step { ranScenario with pending := [.write .payload 128 mixedPayload] } = .next t) ∧
      ({ ranScenario with pending := [.write .payload 128 mixedPayload] } : State).pending.head? ≠ some .reset ∧
      ({ ranScenario with pending := [.write .payload 128 mixedPayload] } : State).pending.head? ≠
        some (.write .cmd 16 runWord) := ⟨⟨_, rfl⟩, by decide, by decide⟩

/-- ValidBitsRecordTheHostWrites: each write from reset sets its bit. -/
theorem witness_valid_bits_set :
    (∃ t, step (awaiting [.write .payload 128 mixedPayload]) = .next t ∧ t.payloadV = true) ∧
      (∃ t, step (awaiting [.write .posvec 64 scenarioPositions]) = .next t ∧ t.posvecV = true) ∧
      State.reset.payloadV = false ∧ State.reset.posvecV = false :=
  ⟨⟨_, rfl, rfl⟩, ⟨_, rfl, rfl⟩, rfl, rfl⟩

/-- ValidBitsRecordTheHostWrites: a reset clears both. -/
theorem witness_valid_bits_cleared :
    ranScenario.payloadV = true ∧ ranScenario.posvecV = true ∧
      ∃ t, step { ranScenario with pending := [.reset] } = .next t ∧ t.payloadV = false ∧ t.posvecV = false :=
  ⟨rfl, rfl, _, rfl, rfl, rfl⟩

/-- RecoveryIsOnlyAsStated: FIRST_ERR cleared by CLRERR and by reset; LAST_OK and LAST_ERR rewritten. -/
theorem witness_first_err_cleared :
    afterBadInject.firstErr ≠ 0#4 ∧
      (∃ t, step { afterBadInject with pending := [.write .cmd 16 clrerrWord] } = .next t ∧ t.firstErr = 0#4) ∧
      (∃ t, step { afterBadInject with pending := [.reset] } = .next t ∧ t.firstErr = 0#4) ∧
      (∃ t, execute 0x0000#16 afterBadInject = .next t) ∧
      ∃ u, execute 0x0000#16 { afterBadInject with lastOk := true, lastErr := 5#4 } = .next u :=
  ⟨by decide, ⟨_, rfl, rfl⟩, ⟨_, rfl, rfl⟩, ⟨_, rfl⟩, _, rfl⟩

/-- RecoveryIsOnlyAsStated, RunAgreesWithTheUnitCommands, RunsWithNoHostWriteBetweenAgree: a RUN that completes. -/
theorem witness_run_completes :
    exec .run (withInputs 0#128 scenarioPositions) = .next ranScenario ∧ ranScenario.lastOk = true ∧
      (withInputs 0#128 scenarioPositions).posvec = some scenarioPositions ∧
      (withInputs 0#128 scenarioPositions).runValid = false ∧ ranScenario.runValid = true :=
  ⟨rfl, rfl, rfl, rfl, rfl⟩

/-- RunsWithNoHostWriteBetweenAgree: a NOP and an illegal word between two RUNs. -/
theorem witness_two_runs :
    execute runWord (withInputs 0#128 scenarioPositions) = .next ranScenario ∧
      ∃ u v, runCommands [0x0000#16, 0x000A#16] ranScenario = some u ∧ execute runWord u = .next v :=
  ⟨rfl, _, _, rfl, rfl⟩

/-- LanesAreIndependent: two payloads that differ in block 1 only, seen from lane 0. -/
theorem witness_lanes :
    split 0x0000#128 (0 : BlockIndex) = split 0xFF00#128 (0 : BlockIndex) ∧
      (withInputs 0x0000#128 scenarioPositions).payload = some 0x0000#128 ∧
      (withInputs 0xFF00#128 scenarioPositions).payload = some 0xFF00#128 ∧
      (∃ t, exec .run (withInputs 0x0000#128 scenarioPositions) = .next t ∧ t.lastOk = true) ∧
      ∃ t, exec .run (withInputs 0xFF00#128 scenarioPositions) = .next t ∧ t.lastOk = true :=
  ⟨by decide, rfl, rfl, ⟨_, rfl, rfl⟩, _, rfl, rfl⟩

/-- FaultPriority: illegal positions, and the two words with an illegal p. -/
theorem witness_fault_priority :
    ¬ PositionsLegal 0x8765439187650321#64 ∧
      (∃ t, execute runWord (withInputs 0#128 0x8765439187650321#64) = .next t) ∧
      (∃ t, execute (word 0x00#8 9#4 0x5#4) State.reset = .next t) ∧
      ∃ t, execute (word 0x00#8 0#4 0x6#4) State.reset = .next t := by
  refine ⟨fun h => absurd (h 3).1 (by decide), ⟨_, rfl⟩, ⟨_, rfl⟩, _, rfl⟩

/-- WholeRunFromAnyIdleState: over a machine that has run and faulted before. -/
theorem witness_whole_run :
    ({ afterBadInject with pending := runActions mixedPayload scenarioPositions } : State).busy = false ∧
      ({ afterBadInject with pending := runActions mixedPayload scenarioPositions } : State).pending =
        .write .payload 128 mixedPayload :: .write .posvec 64 scenarioPositions ::
          .write .cmd 16 0x0008#16 :: [] := ⟨rfl, rfl⟩

/-- DrawsReachOnlyReplies: a read of a register that holds no value. -/
theorem witness_draw : ∃ t, step (awaiting [.read .aggStat 16]) = .next t := ⟨_, rfl⟩

/-- OnlyRunReadsThePositions: SPLIT, which reads PAYLOAD. -/
theorem witness_not_run :
    Instr.split 15#4 ≠ .run ∧ ∃ t, exec (.split 15#4) (withPayload mixedPayload) = .next t := ⟨by decide, _, rfl⟩

end Sys2Proof.Tests
end

/-!
Proofs of the statements about the state of the core (10_state.md): O44, O49, O50, O51, O59, O14, O15. Everything a command,
a command word and a step can do is said once, as the inductive relations CommandEffect, WordEffect and StepEffect; the
proofs are case analyses on them.
-/

namespace Sys2Proof.Proofs

open Sys2Proof.Machine Sys2Proof.Safety Sys2Proof.Claim

/-! ## What a command and a step can do, as inductive relations whose cases later proofs name -/

/-- The next states of the command `i` from `s`, form by form (30_encoding.md R76, 60_exceptions.md R201, R202). -/
inductive CommandEffect (i : Instr) (s : State) : State → Prop
  | result (hi : unitCommand i = true) (v : BitVec 16) : CommandEffect i s (complete (setResult v s))
  | unitFault (hi : unitCommand i = true) (code : FaultCode)
      (hc : code = .missingInput ∨ code = .invalidErrorPosition) : CommandEffect i s (raiseFault code 0#4 s)
  | nop (hi : i = .nop) : CommandEffect i s (complete s)
  | clrerr (hi : i = .clrerr) : CommandEffect i s (complete (clearFirstErr s))
  | runFault (hi : i = .run) (code : FaultCode) (blk : BitVec 4)
      (hc : (code = .missingInput ∨ code = .missingPositions) ∧ blk = 0#4 ∨ code = .invalidErrorPosition) :
      CommandEffect i s (raiseRunFault code blk s)
  | runStored (hi : i = .run) (x : Payload) (q : PosVec) (hx : payloadOperand s = some x)
      (hv : posvecOperand s = some q) (hq : PositionsLegal q) : CommandEffect i s (complete (storeRun x q s))

theorem commandEffect_of_exec {i : Instr} {s t : State} (h : exec i s = .next t) : CommandEffect i s t := by
  rcases exec_cases i s with ⟨hi, v, he⟩ | ⟨hi, code, hc, he⟩ | ⟨hi, he⟩ | ⟨hi, he⟩ | ⟨hi, code, blk, hc, he⟩ |
    ⟨hi, x, q, hx, hv, hq, he⟩ <;> obtain rfl := Host.Outcome.next.inj (h.symm.trans he)
  · exact .result hi v
  · exact .unitFault hi code hc
  · exact .nop hi
  · exact .clrerr hi
  · exact .runFault hi code blk hc
  · exact .runStored hi x q hx hv hq

/-- The next states of Execute(w) from `s`: those of the decoded command, or IllegalCommand recorded. -/
inductive WordEffect (w : CmdWord) (s t : State) : Prop
  | legal (i : Instr) (hw : decode w = .ok i) (he : CommandEffect i s t)
  | illegal (ht : t = raiseFault .illegalCommand 0#4 s)

theorem wordEffect_of_execute {w : CmdWord} {s t : State} (h : execute w s = .next t) : WordEffect w s t := by
  rcases execute_cases w s with ⟨i, hw, he⟩ | ⟨r, _, he⟩
  · exact .legal i hw (commandEffect_of_exec (he.symm.trans h))
  · exact .illegal (Host.Outcome.next.inj (h.symm.trans he))

/-- `s` with the host's next action taken from `pending`. -/
def taken (s : State) (rest : List HostAction) : State := { s with pending := rest }

/-- The next states of a step from `s`: the wait, the reset, a read, or one of the three writes (20_memory.md R54). -/
inductive StepEffect (s : State) : State → Prop
  | wait (hp : s.pending = []) : StepEffect s s
  | reset (rest : List HostAction) (hp : s.pending = .reset :: rest) : StepEffect s (hostReset (taken s rest))
  | read (rest : List HostAction) (r : Reg) (hp : s.pending = .read r r.width :: rest) (hr : r ≠ .cmd)
      (hb : s.busy = false ∨ r = .status) : StepEffect s (hostRead r (taken s rest))
  | writePayload (rest : List HostAction) (v : Payload) (hp : s.pending = .write .payload 128 v :: rest)
      (hb : s.busy = false) : StepEffect s (hostWritePayload v (taken s rest))
  | writePosvec (rest : List HostAction) (v : PosVec) (hp : s.pending = .write .posvec 64 v :: rest)
      (hb : s.busy = false) : StepEffect s (hostWritePosvec v (taken s rest))
  | command (rest : List HostAction) (w : CmdWord) (t : State) (hp : s.pending = .write .cmd 16 w :: rest)
      (hb : s.busy = false) (he : execute w (newEra (taken s rest)) = .next t) : StepEffect s t

theorem stepEffect_of_step {s t : State} (h : step s = .next t) : StepEffect s t := by
  rcases step_next_cases h with ⟨hp, rfl⟩ | ⟨a, rest, hp, ha⟩
  · exact .wait hp
  · rcases act_next_cases ha with ⟨rfl, rfl⟩ | ⟨r, hr, hb, rfl, rfl⟩ |
      ⟨hb, ⟨v, rfl, rfl⟩ | ⟨v, rfl, rfl⟩ | ⟨w, rfl, he⟩⟩
    · exact .reset rest hp
    · exact .read rest r hp hr hb
    · exact .writePayload rest v hp hb
    · exact .writePosvec rest v hp hb
    · exact .command rest w t hp hb he

/-! ## The invariant (10_state.md R39, 60_exceptions.md R201, R202) -/

/-- Completion clears all that StatusAgrees constrains but FIRST_ERR. -/
theorem statusAgrees_complete {s : State} (h : recordableCode s.firstErr) : StatusAgrees (complete s) :=
  ⟨rfl, .inl rfl, h, fun _ => rfl, fun h0 => absurd rfl h0, fun h0 => absurd rfl h0⟩

theorem recordableCode_toBits {code : FaultCode} (hc : code ≠ .malformedInput) : recordableCode code.toBits := by
  cases code <;> simp_all [recordableCode, FaultCode.toBits]

theorem toBits_ne_zero (code : FaultCode) : code.toBits ≠ 0#4 := by
  cases code <;> decide

/-- The sticky FIRST_ERR keeps an old code or takes the new one (R202). -/
theorem recordableCode_firstErrAfter {first code : BitVec 4} (hf : recordableCode first) (hc : recordableCode code) :
    recordableCode (firstErrAfter first code) := by
  unfold firstErrAfter
  split
  · exact hc
  · exact hf

theorem firstErrAfter_ne_zero (first : BitVec 4) {code : BitVec 4} (hc : code ≠ 0#4) :
    firstErrAfter first code ≠ 0#4 := by
  unfold firstErrAfter
  split
  · exact hc
  · assumption

/-- Fault entry records a code the core raises, in both error fields, and a block only with code 3. -/
theorem statusAgrees_raiseFault {s : State} {code : FaultCode} {blk : BitVec 4} (h : recordableCode s.firstErr)
    (hc : code ≠ .malformedInput) (hb : blk ≠ 0#4 → code = .invalidErrorPosition) :
    StatusAgrees (raiseFault code blk s) := by
  have hcode : recordableCode code.toBits := recordableCode_toBits hc
  refine ⟨rfl, hcode, recordableCode_firstErrAfter h hcode, nofun, fun _ => firstErrAfter_ne_zero _ (toBits_ne_zero code),
    fun hblk => ?_⟩
  rw [raiseFault_lastErr, hb hblk]
  rfl

/-- A completed RUN leaves its own results, whole, in the banks (46_aggregator_run.md R165). -/
theorem banksHold_storeRun (x : Payload) (q : PosVec) (s : State) : BanksHold x q (storeRun x q s) := by
  refine ⟨fun i => ?_, by simp [aggregateOrig_lane], aggregateCorr (lane x q), rfl,
    extractLsb'_aggregateCorr_lane x q, by simp [aggregateOrig_lane, aggregateEq, aggregateMatch]⟩
  simp [lane]

/-- Clearing RUN_VALID is no harm to the banks (60_exceptions.md R202). -/
theorem banksAgree_raiseRunFault {s : State} (code : FaultCode) (blk : BitVec 4) (h : BanksAgree s) :
    BanksAgree (raiseRunFault code blk s) := by
  rcases h with ⟨hempty, _⟩ | hold
  · exact .inl ⟨hempty, rfl⟩
  · exact .inr hold

theorem CommandEffect.coreInvariant {i : Instr} {s t : State} (he : CommandEffect i s t) (h : CoreInvariant s) :
    CoreInvariant t := by
  obtain ⟨hin, hst, hbanks⟩ := h
  obtain ⟨-, -, hfirst, -⟩ := hst
  cases he with
  | result _ v => exact ⟨hin, statusAgrees_complete hfirst, hbanks⟩
  | unitFault _ code hc =>
    have hne : code ≠ .malformedInput := by rcases hc with rfl | rfl <;> nofun
    exact ⟨hin, statusAgrees_raiseFault hfirst hne fun h0 => absurd rfl h0, hbanks⟩
  | nop => exact ⟨hin, statusAgrees_complete hfirst, hbanks⟩
  | clrerr => exact ⟨hin, statusAgrees_complete (.inl rfl), hbanks⟩
  | runFault _ code blk hc =>
    have hne : code ≠ .malformedInput := by rcases hc with ⟨rfl | rfl, _⟩ | rfl <;> nofun
    have hblk : blk ≠ 0#4 → code = .invalidErrorPosition := fun h0 => hc.resolve_left fun hz => h0 hz.2
    exact ⟨hin, statusAgrees_raiseFault hfirst hne hblk, banksAgree_raiseRunFault code blk hbanks⟩
  | runStored _ x q _ _ hq =>
    exact ⟨hin, statusAgrees_complete hfirst, .inr ⟨x, q, hq, banksHold_storeRun x q s⟩⟩

theorem execute_coreInvariant {w : CmdWord} {s t : State} (he : execute w s = .next t) (h : CoreInvariant s) :
    CoreInvariant t := by
  cases wordEffect_of_execute he with
  | legal i _ hi => exact hi.coreInvariant h
  | illegal ht =>
    obtain ⟨hin, ⟨-, -, hfirst, -⟩, hbanks⟩ := h
    subst ht
    exact ⟨hin, statusAgrees_raiseFault hfirst nofun fun h0 => absurd rfl h0, hbanks⟩

theorem coreInvariant_hostReset (s : State) : CoreInvariant (hostReset s) := by
  refine ⟨⟨rfl, rfl⟩, ?_, .inl ⟨⟨fun i => ?_, rfl, rfl, rfl⟩, rfl⟩⟩
  · simp [StatusAgrees, State.reset, recordableCode]
  · simp [State.reset]

/-- Settles O44: each of the step's six forms keeps the invariant. Waits and reads leave its fields alone, a host write
sets its register and valid bit together, and a command is `execute_coreInvariant`. -/
theorem everyStepKeepsTheInvariant : Obligations.EveryStepKeepsTheInvariant := by
  intro s t h hstep
  cases stepEffect_of_step hstep with
  | wait => exact h
  | reset => exact coreInvariant_hostReset _
  | read => exact h
  | writePayload rest v =>
    obtain ⟨⟨_, hposvec⟩, hst, hbanks⟩ := h
    exact ⟨⟨rfl, hposvec⟩, hst, hbanks⟩
  | writePosvec rest v =>
    obtain ⟨⟨hpayload, _⟩, hst, hbanks⟩ := h
    exact ⟨⟨hpayload, rfl⟩, hst, hbanks⟩
  | command rest w _ _ _ he => exact execute_coreInvariant he h

/-! ## STATUS as a register (10_state.md section 4, R31) -/

/-- Settles O14: each field is read off the concatenation that `statusWord` is, part by part. -/
theorem statusLayout : Obligations.StatusLayout := by
  intro s
  refine ⟨?lastOk, ?runValid, ?payloadV, ?posvecV, ?lastErr, ?firstErr, ?errBlock, ?busy, fun k hk => ?high⟩
  case lastOk | runValid | payloadV | posvecV | busy =>
    simp only [statusWord, BitVec.getLsbD_setWidth, BitVec.getLsbD_append]
    simp
  case lastErr | firstErr | errBlock =>
    rw [statusWord, BitVec.extractLsb'_setWidth_of_le (by decide)]
    simp (disch := decide) only [BitVec.extractLsb'_append_eq_of_le, BitVec.extractLsb'_append_eq_of_add_le]
    exact BitVec.extractLsb'_eq_self
  case high =>
    rw [statusWord, BitVec.getLsbD_setWidth, BitVec.getLsbD_of_ge _ k hk, Bool.and_false]

/-- Settles O15: STATUS is not writable, whatever the width and the state. -/
theorem statusIsReadOnly : Obligations.StatusIsReadOnly := by
  intro s n v rest hp
  exact ⟨.writeOfReadOnly, step_cons hp⟩

/-! ## RESULT (10_state.md R33) -/

/-- A unit command that completes ends in the same state whatever RESULT held before: all 16 bits are written. -/
theorem exec_of_other_result {i : Instr} (v : BitVec 16) {s t : State} (hi : unitCommand i = true)
    (he : exec i s = .next t) (hok : t.lastOk = true) : exec i { s with result := v } = .next t := by
  cases i with
  | nop | run | clrerr => cases hi
  | parity | syndrome | locate | correct => exact he
  | inject b p =>
    simp only [exec, execInject] at he ⊢
    split at he
    · next hp => rw [if_pos hp]; exact he
    · cases he; cases hok
  | process b p =>
    simp only [exec, execProcess] at he ⊢
    split at he
    · next hp => rw [if_pos hp]; exact he
    · cases he; cases hok
  | split idx =>
    have hop : payloadOperand { s with result := v } = payloadOperand s := rfl
    simp only [exec, execSplit, hop] at he ⊢
    split at he
    · cases he; cases hok
    · exact he

/-- A field of n bits in a 16-bit RESULT sets no bit outside its mask. -/
theorem getLsbD_setWidth_of_mask {n k : Nat} (x : BitVec n)
    (hk : ((BitVec.allOnes n).setWidth 16).getLsbD k = false) : (x.setWidth 16).getLsbD k = false := by
  simp only [BitVec.getLsbD_setWidth, BitVec.getLsbD_allOnes, Bool.and_eq_false_iff, decide_eq_false_iff_not] at hk ⊢
  exact hk.imp_right fun h => BitVec.getLsbD_of_ge x k (by omega)

/-- The two fields of the RESULT of CORRECT (44_corrector.md R142), bit by bit. -/
theorem getLsbD_highField_add_lowField (e : Syndrome) (w : Word7) (k : Nat) :
    (e.setWidth 16 * 256#16 + w.setWidth 16).getLsbD k = if k < 8 then w.getLsbD k else e.getLsbD (k - 8) := by
  have hv : (e.setWidth 16 * 256#16 + w.setWidth 16).toNat = 2 ^ 8 * e.toNat + w.toNat := by
    have := e.isLt; have := w.isLt
    simp only [BitVec.toNat_add, BitVec.toNat_mul, BitVec.toNat_setWidth, BitVec.toNat_ofNat]
    omega
  have hw : w.toNat < 2 ^ 8 := by omega
  simp only [BitVec.getLsbD, hv, Nat.testBit_two_pow_mul_add _ hw]

/-- The mask of CORRECT covers both of its fields. -/
theorem correctMask_covers : ∀ k < 16, (0x077F#16).getLsbD k = false → 7 ≤ k ∧ (k < 8 ∨ 11 ≤ k) := by decide

theorem getLsbD_correctResult_of_mask (e : Syndrome) (w : Word7) {k : Nat} (hk : (0x077F#16).getLsbD k = false) :
    (e.setWidth 16 * 256#16 + w.setWidth 16).getLsbD k = false := by
  by_cases hlt : k < 16
  · obtain ⟨hlow, hhigh⟩ := correctMask_covers k hlt hk
    rw [getLsbD_highField_add_lowField]
    split
    · exact BitVec.getLsbD_of_ge w k hlow
    · exact BitVec.getLsbD_of_ge e (k - 8) (by omega)
  · exact BitVec.getLsbD_of_ge _ k (by omega)

/-- A unit command that completes sets no bit of RESULT outside those it defines. -/
theorem result_getLsbD_of_mask {i : Instr} {s t : State} (hi : unitCommand i = true) (he : exec i s = .next t)
    (hok : t.lastOk = true) {k : Nat} (hk : (resultBits i).getLsbD k = false) : t.result.getLsbD k = false := by
  cases i with
  | nop | run | clrerr => cases hi
  | parity w => cases he; exact getLsbD_setWidth_of_mask (n := 3) _ hk
  | syndrome w => cases he; exact getLsbD_setWidth_of_mask (n := 3) _ hk
  | locate w => cases he; exact getLsbD_setWidth_of_mask (n := 7) _ hk
  | correct w =>
    cases he
    exact getLsbD_correctResult_of_mask (syndrome7 w) (correct7 w) hk
  | inject b p =>
    simp only [exec, execInject] at he
    split at he
    · cases he; exact getLsbD_setWidth_of_mask (n := 8) _ hk
    · cases he; cases hok
  | process b p =>
    have hall : (BitVec.allOnes 16).getLsbD k = false := hk
    have hge : 16 ≤ k := by simpa only [BitVec.getLsbD_allOnes, decide_eq_false_iff_not, not_lt] using hall
    exact BitVec.getLsbD_of_ge _ k hge
  | split idx =>
    simp only [exec, execSplit] at he
    split at he
    · cases he; cases hok
    · cases he; exact getLsbD_setWidth_of_mask (n := 8) _ hk

theorem CommandEffect.result_eq {i : Instr} {s t : State} (he : CommandEffect i s t)
    (h : unitCommand i = false ∨ t.lastOk = false) : t.result = s.result := by
  cases he with
  | result hi => simp [hi] at h
  | unitFault | nop | clrerr | runFault | runStored => rfl

theorem StepEffect.result_eq {s t : State} (he : StepEffect s t) (hreset : s.pending.head? ≠ some .reset)
    (hcmd : ∀ w, s.pending.head? ≠ some (.write .cmd 16 w)) : t.result = s.result := by
  cases he with
  | wait | read | writePayload | writePosvec => rfl
  | reset rest hp => simp [hp] at hreset
  | command rest w _ hp => simp [hp] at hcmd

/-- Settles O49: `result_eq` says who leaves RESULT, `exec_of_other_result` and `result_getLsbD_of_mask` what the others
write. -/
theorem onlyCompletedUnitCommandsWriteResult : Obligations.OnlyCompletedUnitCommandsWriteResult := by
  refine ⟨fun i s t he h => (commandEffect_of_exec he).result_eq h, fun i v s t u hi he hok hu => ?_,
    fun i s t hi he hok k hk => result_getLsbD_of_mask hi he hok hk, fun w r s t hw he => ?_,
    fun s t he hreset hcmd => (stepEffect_of_step he).result_eq hreset hcmd, rfl⟩
  · rw [exec_of_other_result v hi he hok] at hu
    rw [Host.Outcome.next.inj hu]
  · rw [execute_of_reject hw] at he
    rw [← Host.Outcome.next.inj he]; rfl

/-! ## The banks, the AGG registers and RUN_VALID (10_state.md R27, R34, R35) -/

/-- 0x0008 is RUN's only word (30_encoding.md R75): the mask of its row is all ones. -/
theorem eq_runWord_of_decode {w : CmdWord} (h : decode w = .ok .run) : w = runWord := by
  simp only [decode] at h
  split at h
  · cases h
  split at h
  · cases h
  next _ hrow =>
    split at h <;> try cases h
    next hopc =>
      rw [hopc] at hrow
      exact BitVec.and_allOnes.symm.trans (not_not.mp hrow)

theorem sameBanks_refl (s : State) : sameBanks s s := ⟨rfl, rfl, rfl, rfl, rfl, rfl, rfl⟩

/-- No command but RUN writes the banks or RUN_VALID. -/
theorem CommandEffect.keeps_banks {i : Instr} {s t : State} (he : CommandEffect i s t) (hi : i ≠ .run) :
    sameBanks s t ∧ t.runValid = s.runValid := by
  cases he with
  | result | unitFault | nop | clrerr => exact ⟨sameBanks_refl s, rfl⟩
  | runFault hrun | runStored hrun => exact absurd hrun hi

theorem WordEffect.keeps_banks {w : CmdWord} {s t : State} (he : WordEffect w s t) (hw : w ≠ runWord) :
    sameBanks s t ∧ t.runValid = s.runValid := by
  cases he with
  | legal i hi he => exact he.keeps_banks fun hrun => hw (eq_runWord_of_decode (hrun ▸ hi))
  | illegal ht => subst ht; exact ⟨sameBanks_refl s, rfl⟩

/-- Settles O50: of the step's six forms only a reset and the command RUN touch the banks. -/
theorem onlyRunWritesTheBanks : Obligations.OnlyRunWritesTheBanks := by
  intro s t hstep hreset hrun
  cases stepEffect_of_step hstep with
  | wait | read | writePayload | writePosvec => exact ⟨sameBanks_refl s, rfl⟩
  | reset rest hp => simp [hp] at hreset
  | command rest w _ hp _ he =>
    exact (wordEffect_of_execute he).keeps_banks fun hw => hrun (by rw [hp, hw]; rfl)

/-! ## PAYLOAD_V and POSVEC_V (10_state.md R28) -/

theorem WordEffect.validBits {w : CmdWord} {s t : State} (he : WordEffect w s t) :
    t.payloadV = s.payloadV ∧ t.posvecV = s.posvecV := by
  cases he with
  | legal i _ he => cases he <;> exact ⟨rfl, rfl⟩
  | illegal ht => subst ht; exact ⟨rfl, rfl⟩

/-- What a step may do to a valid bit: set it by the host's write, clear it by a reset, else leave it. -/
def ValidBitEffect (written reset : Prop) (old new : Bool) : Prop :=
  written ∧ new = true ∨ ¬ written ∧ (reset ∧ new = false ∨ new = old)

section
variable {written reset : Prop} {old new : Bool}

theorem ValidBitEffect.set_of_written (h : ValidBitEffect written reset old new) (hw : written) : new = true := by
  rcases h with ⟨_, hnew⟩ | ⟨hn, _⟩
  · exact hnew
  · exact absurd hw hn

theorem ValidBitEffect.reset_of_cleared (h : ValidBitEffect written reset old new) (hold : old = true)
    (hnew : new = false) : reset := by
  rcases h with ⟨_, hset⟩ | ⟨_, ⟨hr, _⟩ | hkeep⟩
  · exact absurd (hset.symm.trans hnew) nofun
  · exact hr
  · exact absurd (hold.symm.trans (hkeep.symm.trans hnew)) nofun

theorem ValidBitEffect.written_of_set (h : ValidBitEffect written reset old new) (hold : old = false)
    (hnew : new = true) : written := by
  rcases h with ⟨hw, _⟩ | ⟨_, ⟨_, hclear⟩ | hkeep⟩
  · exact hw
  · exact absurd (hclear.symm.trans hnew) nofun
  · exact absurd (hold.symm.trans (hkeep.symm.trans hnew)) nofun

end

theorem StepEffect.payloadV_effect {s t : State} (he : StepEffect s t) :
    ValidBitEffect (∃ v, s.pending.head? = some (.write .payload 128 v)) (s.pending.head? = some .reset)
      s.payloadV t.payloadV := by
  cases he with
  | writePayload rest v hp => exact .inl ⟨⟨v, by rw [hp]; rfl⟩, rfl⟩
  | reset rest hp => exact .inr ⟨by simp [hp], .inl ⟨by rw [hp]; rfl, rfl⟩⟩
  | wait hp | read _ _ hp | writePosvec _ _ hp => exact .inr ⟨by simp [hp], .inr rfl⟩
  | command rest w _ hp _ he => exact .inr ⟨by simp [hp], .inr (wordEffect_of_execute he).validBits.1⟩

theorem StepEffect.posvecV_effect {s t : State} (he : StepEffect s t) :
    ValidBitEffect (∃ v, s.pending.head? = some (.write .posvec 64 v)) (s.pending.head? = some .reset)
      s.posvecV t.posvecV := by
  cases he with
  | writePosvec rest v hp => exact .inl ⟨⟨v, by rw [hp]; rfl⟩, rfl⟩
  | reset rest hp => exact .inr ⟨by simp [hp], .inl ⟨by rw [hp]; rfl, rfl⟩⟩
  | wait hp | read _ _ hp | writePayload _ _ hp => exact .inr ⟨by simp [hp], .inr rfl⟩
  | command rest w _ hp _ he => exact .inr ⟨by simp [hp], .inr (wordEffect_of_execute he).validBits.2⟩

/-- Settles O51: every clause follows from the effect of a step on the bit. -/
theorem validBitsRecordTheHostWrites : Obligations.ValidBitsRecordTheHostWrites :=
  ⟨⟨rfl, rfl⟩,
    fun _ _ v hp h => (stepEffect_of_step h).payloadV_effect.set_of_written ⟨v, hp⟩,
    fun _ _ v hp h => (stepEffect_of_step h).posvecV_effect.set_of_written ⟨v, hp⟩,
    fun _ _ h => (stepEffect_of_step h).payloadV_effect.reset_of_cleared,
    fun _ _ h => (stepEffect_of_step h).posvecV_effect.reset_of_cleared,
    fun _ _ h => (stepEffect_of_step h).payloadV_effect.written_of_set,
    fun _ _ h => (stepEffect_of_step h).posvecV_effect.written_of_set⟩

/-! ## The draws (10_state.md R21, 20_memory.md R55) -/

/-- `s` with another last reply and another value of the model's counter. -/
def withDraws (rep : Option Reply) (era : Nat) (s : State) : State := { s with reply := rep, drawEra := era }

/-- An outcome with its next state, if it has one, mapped. -/
def mapNext (f : State → State) : Host.Outcome State Fault Refusal → Host.Outcome State Fault Refusal
  | .next s => .next (f s)
  | .fault r => .fault r
  | .refused r => .refused r

@[simp] theorem payloadOperand_withDraws (rep : Option Reply) (era : Nat) (s : State) :
    payloadOperand (withDraws rep era s) = payloadOperand s := rfl

@[simp] theorem posvecOperand_withDraws (rep : Option Reply) (era : Nat) (s : State) :
    posvecOperand (withDraws rep era s) = posvecOperand s := rfl

/-- A command neither reads nor writes the reply and the counter. -/
theorem exec_withDraws (rep : Option Reply) (era : Nat) (i : Instr) (s : State) :
    exec i (withDraws rep era s) = mapNext (withDraws rep era) (exec i s) := by
  cases i with
  | nop | parity | syndrome | locate | correct | clrerr => rfl
  | inject b p => simp only [exec, execInject]; split <;> rfl
  | process b p => simp only [exec, execProcess]; split <;> rfl
  | split idx => simp only [exec, execSplit, payloadOperand_withDraws]; split <;> rfl
  | run =>
    simp only [exec, execRun, payloadOperand_withDraws, posvecOperand_withDraws]
    split
    · rfl
    · rfl
    · split <;> rfl

theorem execute_withDraws (rep : Option Reply) (era : Nat) (w : CmdWord) (s : State) :
    execute w (withDraws rep era s) = mapNext (withDraws rep era) (execute w s) := by
  rcases execute_cases w s with ⟨i, hw, he⟩ | ⟨r, hw, he⟩
  · rw [he, execute_of_decode hw, exec_withDraws]
  · rw [he, execute_of_reject hw]; rfl

theorem step_withDraws_cons (rep : Option Reply) (era : Nat) {s : State} {a : HostAction} {rest : List HostAction}
    (hp : s.pending = a :: rest) : step (withDraws rep era s) = act a (withDraws rep era (taken s rest)) :=
  step_cons (s := withDraws rep era s) hp

/-- Settles O59: each form of the step commutes with a change of the draws, up to the draws themselves. -/
theorem drawsReachOnlyReplies : Obligations.DrawsReachOnlyReplies := by
  intro s rep era t hstep
  change ∃ u, step (withDraws rep era s) = .next u ∧ sameDraws t u = t
  cases stepEffect_of_step hstep with
  | wait hp => exact ⟨_, step_nil (s := withDraws rep era s) hp, rfl⟩
  | reset rest hp => exact ⟨_, step_withDraws_cons rep era hp, rfl⟩
  | read rest r hp hr hb => exact ⟨_, (step_withDraws_cons rep era hp).trans (act_read hr hb), rfl⟩
  | writePayload rest v hp hb => exact ⟨_, (step_withDraws_cons rep era hp).trans (act_write_payload v hb), rfl⟩
  | writePosvec rest v hp hb => exact ⟨_, (step_withDraws_cons rep era hp).trans (act_write_posvec v hb), rfl⟩
  | command rest w _ hp hb he =>
    refine ⟨withDraws rep (era + 1) t, ?_, rfl⟩
    calc step (withDraws rep era s)
        = act (.write .cmd 16 w) (withDraws rep era (taken s rest)) := step_withDraws_cons rep era hp
      _ = execute w (withDraws rep (era + 1) (newEra (taken s rest))) := act_write_cmd w hb
      _ = .next (withDraws rep (era + 1) t) := by rw [execute_withDraws, he]; rfl

end Sys2Proof.Proofs

/-!
Proofs of the statements about the host's actions (20_memory.md): O18, O7, O13, O16, O45, O48, O8, O9, O10, O11, O12. What a
command does to the host's side is said once over CommandEffect, and which accesses R54 lists once as ListedForm; the
statements about runs are inductions over the steps, or over the reads, that these lemmas describe one at a time.
-/

namespace Sys2Proof.Proofs

open Sys2Proof.Machine Sys2Proof.Safety Sys2Proof.Claim

/-! ## Command words (20_memory.md R50, R58, R62) -/

theorem exec_next (i : Instr) (s : State) : ∃ t, exec i s = .next t := by
  rcases exec_cases i s with ⟨_, _, h⟩ | ⟨_, _, _, h⟩ | ⟨_, h⟩ | ⟨_, h⟩ | ⟨_, _, _, _, h⟩ | ⟨_, _, _, _, _, _, h⟩ <;>
    exact ⟨_, h⟩

/-- Settles O45: a word is a command, which always has a next state, or records IllegalCommand. -/
theorem everyCommandWordIsOneStep : Obligations.EveryCommandWordIsOneStep := by
  intro w s
  rcases execute_cases w s with ⟨i, _, he⟩ | ⟨_, _, he⟩
  · exact he ▸ exec_next i s
  · exact ⟨_, he⟩

/-- The host's side of the state: the inputs and their valid bits, and the model's own fields. -/
def sameHostSide (s t : State) : Prop :=
  t.payload = s.payload ∧ t.posvec = s.posvec ∧ t.payloadV = s.payloadV ∧ t.posvecV = s.posvecV ∧
    t.pending = s.pending ∧ t.reply = s.reply ∧ t.drawEra = s.drawEra

theorem sameHostSide_refl (s : State) : sameHostSide s s := ⟨rfl, rfl, rfl, rfl, rfl, rfl, rfl⟩

theorem CommandEffect.keeps_hostSide {i : Instr} {s t : State} (he : CommandEffect i s t) : sameHostSide s t := by
  cases he <;> exact sameHostSide_refl s

theorem CommandEffect.busy_eq_false {i : Instr} {s t : State} (he : CommandEffect i s t) : t.busy = false := by
  cases he <;> rfl

theorem WordEffect.busy_eq_false {w : CmdWord} {s t : State} (he : WordEffect w s t) : t.busy = false := by
  cases he with
  | legal _ _ he => exact he.busy_eq_false
  | illegal ht => rw [ht, raiseFault_busy]

/-- Settles O48: no form of next state of a word differs from the old state on the host's side. -/
theorem commandsNeverWriteTheInputs : Obligations.CommandsNeverWriteTheInputs := by
  intro w s t h
  cases wordEffect_of_execute h with
  | legal _ _ he => exact he.keeps_hostSide
  | illegal ht => exact ht ▸ sameHostSide_refl s

/-- Settles O8: the host's write of CMD is Execute of the word, and that is exec of what it decodes to. -/
theorem stepRunsTheDecodedCommand : Obligations.StepRunsTheDecodedCommand := by
  intro s w rest i hp hb hw
  calc step s = execute w (newEra (taken s rest)) := (step_cons hp).trans (act_write_cmd w hb)
    _ = exec i (newEra (taken s rest)) := execute_of_decode hw _

theorem toNat_opcField (w : CmdWord) : (opcField w).toNat = w.toNat % 16 := by simp [opcField]

/-- The list of masks of R76 and the mask column of the decoder are the same. -/
theorem maskList_getElem? : ∀ k < 10, maskList[k]? = some (maskOf k) := by decide

theorem decode_of_illegalWord {w : CmdWord} (h : illegalWord w) : ∃ r, decode w = .error r := by
  by_cases hopc : 10 ≤ w.toNat % 16
  · exact ⟨.reservedOpcode, by simp [decode, toNat_opcField, hopc]⟩
  · obtain ⟨mask, hmask, hbits⟩ := h.resolve_left hopc
    rw [maskList_getElem? _ (by omega)] at hmask
    obtain rfl := Option.some.inj hmask
    exact ⟨.reservedFieldBit, by simp [decode, toNat_opcField, hopc, matchOf, hbits]⟩

/-- Settles O9: an illegal word decodes to nothing, so Execute raises IllegalCommand, code 5. -/
theorem stepRecordsAnIllegalWord : Obligations.StepRecordsAnIllegalWord := by
  intro s w rest hp hb hw
  obtain ⟨r, hr⟩ := decode_of_illegalWord hw
  calc step s = execute w (newEra (taken s rest)) := (step_cons hp).trans (act_write_cmd w hb)
    _ = .next (raiseFault .illegalCommand 0#4 (newEra (taken s rest))) := execute_of_reject hr _

/-! ## Host writes and reads (20_memory.md R55 to R57) -/

/-- Settles O10: the step is the write of PAYLOAD, and only the counter advances beside it. -/
theorem hostWriteOfPayload : Obligations.HostWriteOfPayload :=
  fun s v _ hp hb => ⟨s.drawEra + 1, (step_cons hp).trans (act_write_payload v hb)⟩

/-- Settles O11: the step is the write of POSVEC, and only the counter advances beside it. -/
theorem hostWriteOfPosvec : Obligations.HostWriteOfPosvec :=
  fun s v _ hp hb => ⟨s.drawEra + 1, (step_cons hp).trans (act_write_posvec v hb)⟩

theorem readValue_of_regValue {s : State} {r : Reg} {v : BitVec r.width} (h : regValue s r = some v) :
    readValue s r = v := by simp [readValue, h]

theorem readValue_of_regValue_none {s : State} {r : Reg} (h : regValue s r = none) :
    readValue s r = Config.freeRead s.drawEra r := by simp [readValue, h]

/-- The state after a read of `r` that was the host's next action. -/
def afterRead (r : Reg) (rest : List HostAction) (s : State) : State :=
  { s with pending := rest, reply := some ⟨r, readValue s r⟩ }

theorem readValue_taken (s : State) (rest : List HostAction) (r : Reg) : readValue (taken s rest) r = readValue s r :=
  readValue_hostSide s s.reply rest r

theorem step_read {s : State} {r : Reg} {rest : List HostAction} (hp : s.pending = .read r r.width :: rest)
    (hr : r ≠ .cmd) (hb : s.busy = false ∨ r = .status) : step s = .next (afterRead r rest s) := by
  calc step s = .next (hostRead r (taken s rest)) := (step_cons hp).trans (act_read hr hb)
    _ = .next (afterRead r rest s) := by rw [hostRead, readValue_taken]; rfl

/-- Settles O12: a read is `step_read`, and each register's clause is the value that `regValue` gives for it. -/
theorem hostReadReturnsTheValueHeld : Obligations.HostReadReturnsTheValueHeld :=
  ⟨fun _ _ _ hp hr hb => (step_cons hp).trans (act_read hr hb),
    fun _ _ h => readValue_of_regValue (r := .payload) h,
    fun _ _ h => readValue_of_regValue (r := .posvec) h,
    fun _ => readValue_of_regValue (r := .result) rfl,
    fun _ => readValue_of_regValue (r := .status) rfl,
    fun _ i _ h => readValue_of_regValue (r := .resOrig i) h,
    fun _ i _ h => readValue_of_regValue (r := .resPos i) h,
    fun _ i _ h => readValue_of_regValue (r := .resRecv i) h,
    fun _ i _ h => readValue_of_regValue (r := .resCorr i) h,
    fun _ _ h => readValue_of_regValue (r := .aggOrig) h,
    fun _ _ h => readValue_of_regValue (r := .aggCorr) h,
    fun _ _ h => readValue_of_regValue (r := .aggStat) h,
    fun _ _ h => readValue_of_regValue_none h⟩

theorem readValue_afterRead (s : State) (q r : Reg) (rest : List HostAction) :
    readValue (afterRead q rest s) r = readValue s r := readValue_hostSide s _ rest r

/-- A later read replaces all that an earlier one left. -/
theorem afterRead_afterRead (s : State) (q r : Reg) (rest rest' : List HostAction) :
    afterRead r rest' (afterRead q rest s) = afterRead r rest' s := by
  rw [afterRead, readValue_afterRead]; rfl

/-- A run of reads leaves what its last read alone would have left. -/
theorem run_reads (r : Reg) (rest : List HostAction) (hr : r ≠ .cmd) (others : List Reg) (s : State)
    (hothers : ∀ q ∈ others, q ≠ .cmd) (hb : s.busy = false)
    (hp : s.pending = (others.map fun q => .read q q.width) ++ .read r r.width :: rest) :
    Host.Core.run core (others.length + 1) s = .next (afterRead r rest s) := by
  induction others generalizing s with
  | nil => exact core_run_succ (step_read hp hr (.inl hb)) 0
  | cons q qs ih =>
    obtain ⟨hq, hqs⟩ := List.forall_mem_cons.mp hothers
    calc Host.Core.run core (qs.length + 1 + 1) s
        = Host.Core.run core (qs.length + 1) (afterRead q _ s) := core_run_succ (step_read hp hq (.inl hb)) _
      _ = .next (afterRead r rest (afterRead q _ s)) := ih _ hqs hb rfl
      _ = .next (afterRead r rest s) := by rw [afterRead_afterRead]

/-- Settles O13: the run is a run of reads that ends with one of `r`, and so leaves what the first read of `r` left. -/
theorem readsWithNoWriteBetweenAgree : Obligations.ReadsWithNoWriteBetweenAgree := by
  intro r others s rest hr hothers hb hp
  have hall : ∀ q ∈ r :: others, q ≠ .cmd := List.forall_mem_cons.mpr ⟨hr, hothers⟩
  exact ⟨_, _, step_read hp hr (.inl hb), run_reads r rest hr (r :: others) s hall hb hp, rfl, rfl⟩

/-! ## The table of host actions (20_memory.md R54) -/

theorem hostReadable_iff {r : Reg} : hostReadable r = true ↔ r ≠ .cmd := by cases r <;> simp [hostReadable]

theorem hostWritable_iff {r : Reg} : hostWritable r = true ↔ r = .payload ∨ r = .posvec ∨ r = .cmd := by
  cases r <;> simp [hostWritable]

/-- The rows of R54's table, and the reset. -/
inductive ListedForm : HostAction → Prop
  | reset : ListedForm .reset
  | read (r : Reg) (hr : r ≠ .cmd) : ListedForm (.read r r.width)
  | writePayload (v : Payload) : ListedForm (.write .payload 128 v)
  | writePosvec (v : PosVec) : ListedForm (.write .posvec 64 v)
  | writeCmd (w : CmdWord) : ListedForm (.write .cmd 16 w)

theorem listedForm_of_listed {a : HostAction} (h : listedAction a = true) : ListedForm a := by
  cases a with
  | reset => exact .reset
  | read r n =>
    obtain ⟨hr, rfl⟩ : hostReadable r = true ∧ n = r.width := by simpa [listedAction] using h
    exact .read r (hostReadable_iff.mp hr)
  | write r n v =>
    obtain ⟨hr, rfl⟩ : hostWritable r = true ∧ n = r.width := by simpa [listedAction] using h
    rcases hostWritable_iff.mp hr with rfl | rfl | rfl
    · exact .writePayload v
    · exact .writePosvec v
    · exact .writeCmd v

/-- R50, R54: with BUSY = 0 a listed action has a next state, again with BUSY = 0, and leaves the host's list alone. -/
theorem act_of_listed_of_idle {a : HostAction} {s : State} (ha : listedAction a = true) (hb : s.busy = false) :
    ∃ t, act a s = .next t ∧ t.busy = false ∧ t.pending = s.pending := by
  cases listedForm_of_listed ha with
  | reset => exact ⟨_, act_reset s, rfl, rfl⟩
  | read r hr => exact ⟨_, act_read hr (.inl hb), hb, rfl⟩
  | writePayload v => exact ⟨_, act_write_payload v hb, hb, rfl⟩
  | writePosvec v => exact ⟨_, act_write_posvec v hb, hb, rfl⟩
  | writeCmd w =>
    obtain ⟨t, ht⟩ := everyCommandWordIsOneStep w (newEra s)
    obtain ⟨-, -, -, -, hpending, -⟩ := commandsNeverWriteTheInputs w _ t ht
    exact ⟨t, (act_write_cmd w hb).trans ht, (wordEffect_of_execute ht).busy_eq_false, hpending⟩

/-- R240: while BUSY = 1 a listed action other than a reset and a read of STATUS has no move. -/
theorem act_of_listed_of_busy {a : HostAction} {s : State} (ha : listedAction a = true) (hb : s.busy = true)
    (hreset : a ≠ .reset) (hstatus : a ≠ .read .status 32) : act a s = .fault .hostActionWhileBusy := by
  cases listedForm_of_listed ha with
  | reset => exact absurd rfl hreset
  | read r hr =>
    have hrs : r ≠ .status := by rintro rfl; exact hstatus rfl
    simp [act, hostReadable_iff.mpr hr, hb, hrs]
  | writePayload | writePosvec | writeCmd => simp [act, hostWritable, Reg.width, hb]

theorem act_ne_refused_of_listed {a : HostAction} (ha : listedAction a = true) (s : State) (r : Refusal) :
    act a s ≠ .refused r := by
  cases hb : s.busy with
  | false =>
    obtain ⟨t, ht, -⟩ := act_of_listed_of_idle ha hb
    rw [ht]; nofun
  | true =>
    by_cases hreset : a = .reset
    · subst hreset; nofun
    by_cases hstatus : a = .read .status 32
    · have hread : act (.read .status 32) s = .next (hostRead .status s) := act_read nofun (.inr rfl)
      rw [hstatus, hread]; nofun
    · rw [act_of_listed_of_busy ha hb hreset hstatus]; nofun

theorem act_of_unlisted {a : HostAction} (ha : listedAction a = false) (s : State) : ∃ r, act a s = .refused r := by
  cases a with
  | reset => cases ha
  | read r n =>
    by_cases hr : hostReadable r = true
    · have hn : n ≠ r.width := by simpa [listedAction, hr] using ha
      exact ⟨.wrongWidth, by simp [act, hr, hn]⟩
    · exact ⟨.readOfWriteOnly, by simp [act, hr]⟩
  | write r n v =>
    by_cases hr : hostWritable r = true
    · have hn : n ≠ r.width := by simpa [listedAction, hr] using ha
      exact ⟨.wrongWidth, by simp [act, hr, hn]⟩
    · exact ⟨.writeOfReadOnly, by simp [act, hr]⟩

theorem act_refused_iff {a : HostAction} {s : State} : (∃ r, act a s = .refused r) ↔ listedAction a = false := by
  refine ⟨fun ⟨r, hr⟩ => ?_, fun ha => act_of_unlisted ha s⟩
  by_contra ha
  exact act_ne_refused_of_listed (Bool.eq_true_of_not_eq_false ha) s r hr

theorem listedAction_read_eq_false {r : Reg} {n : Nat} :
    listedAction (.read r n) = false ↔ r = .cmd ∨ n ≠ r.width := by
  rw [listedAction, Bool.and_eq_false_iff, decide_eq_false_iff_not, ← Bool.not_eq_true, hostReadable_iff, not_not]

theorem listedAction_write_eq_false {r : Reg} {n : Nat} {v : BitVec n} :
    listedAction (.write r n v) = false ↔ (r ≠ .payload ∧ r ≠ .posvec ∧ r ≠ .cmd) ∨ n ≠ r.width := by
  rw [listedAction, Bool.and_eq_false_iff, decide_eq_false_iff_not, ← Bool.not_eq_true, hostWritable_iff, not_or, not_or]

/-- Settles O16: a step with an action to take is that action, and the refused actions are the unlisted ones. -/
theorem onlyUnlistedActionsAreRefused : Obligations.OnlyUnlistedActionsAreRefused := by
  intro s a rest hp
  rw [step_cons hp, act_refused_iff]
  constructor
  · intro ha
    cases a with
    | reset => cases ha
    | read r n => exact ⟨r, n, .inl ⟨rfl, listedAction_read_eq_false.mp ha⟩⟩
    | write r n v => exact ⟨r, n, .inr ⟨v, rfl, listedAction_write_eq_false.mp ha⟩⟩
  · rintro ⟨r, n, ⟨rfl, hbad⟩ | ⟨v, rfl, hbad⟩⟩
    · exact listedAction_read_eq_false.mpr hbad
    · exact listedAction_write_eq_false.mpr hbad

theorem step_of_listed_of_idle {s : State} (hb : s.busy = false) (hlisted : ∀ a ∈ s.pending, listedAction a = true) :
    ∃ t, step s = .next t ∧ t.busy = false ∧ t.pending = s.pending.tail := by
  cases hp : s.pending with
  | nil => exact ⟨s, step_nil hp, hb, hp⟩
  | cons a rest =>
    have ha : listedAction a = true := hlisted a (by simp [hp])
    obtain ⟨t, hact, ht⟩ := act_of_listed_of_idle (s := taken s rest) ha hb
    exact ⟨t, (step_cons hp).trans hact, ht⟩

/-- Settles O18, by induction on the number of steps: each takes one action and leaves BUSY = 0 and listed actions. -/
theorem everyHostSequenceIsTaken : Obligations.EveryHostSequenceIsTaken := by
  intro k
  induction k with
  | zero => exact fun s hb _ => ⟨s, rfl, hb, rfl⟩
  | succ k ih =>
    intro s hb hlisted
    obtain ⟨t, hstep, htb, htp⟩ := step_of_listed_of_idle hb hlisted
    have htl : ∀ a ∈ t.pending, listedAction a = true := fun a ha => hlisted a (List.mem_of_mem_tail (htp ▸ ha))
    obtain ⟨u, hrun, hub, hup⟩ := ih t htb htl
    exact ⟨u, (core_run_succ hstep k).trans hrun, hub, by rw [hup, htp, List.drop_tail]⟩

/-! ## The shell's strings (20_memory.md R65, R67) -/

/-- R12: character j is bit j. -/
theorem testBit_natOfChars (cs : List Char) (j : Nat) : (natOfChars cs).testBit j = decide (cs[j]? = some '1') := by
  induction cs generalizing j with
  | nil => simp [natOfChars]
  | cons c cs ih =>
    cases j with
    | zero => by_cases hc : c = '1' <;> simp [natOfChars, hc, Nat.testBit_zero]
    | succ j =>
      have hhalf : natOfChars (c :: cs) / 2 = natOfChars cs := by
        rw [natOfChars]
        split <;> omega
      rw [Nat.testBit_succ, hhalf, ih, List.getElem?_cons_succ]

/-- The string of the value of a bit string is the bit string. -/
theorem stringOf_natOfChars {n : Nat} {cs : List Char} (hlen : cs.length = n) (hbits : ∀ c ∈ cs, c = '0' ∨ c = '1') :
    stringOf (BitVec.ofNat n (natOfChars cs)) = cs := by
  refine List.ext_getElem (by simp [stringOf, hlen]) fun j _ hj => ?_
  have hbit : (BitVec.ofNat n (natOfChars cs)).getLsbD j = decide (cs[j] = '1') := by
    rw [BitVec.getLsbD_ofNat, testBit_natOfChars, List.getElem?_eq_getElem hj]
    simp [← hlen, hj]
  rcases hbits cs[j] (List.getElem_mem hj) with hc | hc <;> simp [stringOf, hbit, hc]

theorem isBitChar_iff {c : Char} : isBitChar c = true ↔ c = '0' ∨ c = '1' := by simp [isBitChar]

/-- The shell accepts only 128 bit characters, and writes the value they denote. -/
theorem of_shellInput_eq_ok {cs : List Char} {x : Payload} (h : shellInput cs = .ok x) :
    cs.length = 128 ∧ (∀ c ∈ cs, c = '0' ∨ c = '1') ∧ x = payloadOfChars cs := by
  unfold shellInput at h
  split at h
  · cases h
  split at h
  · cases h
  next hok =>
    obtain ⟨hlen, hall⟩ := not_or.mp hok
    have hall' : ∀ c ∈ cs, isBitChar c = true := List.all_eq_true.mp (Bool.eq_true_of_not_eq_false hall)
    exact ⟨not_not.mp hlen, fun c hc => isBitChar_iff.mp (hall' c hc), (Except.ok.inj h).symm⟩

/-- Settles O7: an accepted string has 128 bit characters, and the string of its value is the string itself. -/
theorem shellStringsKeepTheBitOrder : Obligations.ShellStringsKeepTheBitOrder := by
  intro cs x h
  obtain ⟨hlen, hbits, rfl⟩ := of_shellInput_eq_ok h
  exact ⟨hlen, hbits, stringOf_natOfChars hlen hbits⟩

end Sys2Proof.Proofs

/-!
Proofs of the statements about the encoding (30_encoding.md): O2, O3, O1, O4, O6. The decoder is read through decode_word,
one row per opcode, and O1 is ten cases of O2. An assembler operand denotes a value exactly when the model accepts it and
reads that value (denotes_iff), which turns each clause of O6 into whether the line is accepted and which command it holds.
-/

namespace Sys2Proof.Proofs

open Sys2Proof.Machine Sys2Proof.Safety Sys2Proof.Claim

/-! ## Decode and encode (30_encoding.md R74 to R76) -/

/-- A narrow operand comes back from the byte it is zero-extended to (R73). -/
theorem extractLsb'_setWidth_self {n m : Nat} (h : n ≤ m) (x : BitVec n) : (x.setWidth m).extractLsb' 0 n = x := by
  rw [BitVec.extractLsb'_setWidth_of_le (by omega), BitVec.extractLsb'_eq_self]

/-- The rows of PARITY, SYNDROME and CORRECT accept the byte of a 7-bit word and return the word. -/
theorem word7_row (f : Word7 → Instr) (w : Word7) :
    (if w.setWidth 8 &&& 0x80#8 = 0#8 ∧ 0#4 = 0#4 then .ok (f ((w.setWidth 8).extractLsb' 0 7))
      else .error .reservedFieldBit : Except Reject Instr) = .ok (f w) := by
  rw [if_pos ⟨Laws.EncodesLegally.word7_and_top w, rfl⟩, extractLsb'_setWidth_self (by decide)]

/-- The row of LOCATE accepts the byte of a syndrome and returns the syndrome. -/
theorem syndrome_row (e : Syndrome) :
    (if e.setWidth 8 &&& 0xF8#8 = 0#8 ∧ 0#4 = 0#4 then .ok (.locate ((e.setWidth 8).extractLsb' 0 3))
      else .error .reservedFieldBit : Except Reject Instr) = .ok (.locate e) := by
  rw [if_pos ⟨Laws.EncodesLegally.syndrome_and_top e, rfl⟩, extractLsb'_setWidth_self (by decide)]

/-- Settles O2: each command's fields pass the test of its opcode's row, and the row returns the operands. -/
theorem decodeOfEncodeIsTheCommand : Obligations.DecodeOfEncodeIsTheCommand := by
  intro i
  rw [encode, decode_word]
  cases i with
  | parity w => exact word7_row .parity w
  | syndrome w => exact word7_row .syndrome w
  | correct w => exact word7_row .correct w
  | locate e => exact syndrome_row e
  | nop | inject | process | split | run | clrerr => rfl

/-- A byte that passes the mask of the 7-bit rows is its own low 7 bits. -/
theorem setWidth_extractLsb'_of_word7_mask :
    ∀ {d : BitVec 8}, d &&& 0x80#8 = 0#8 → (d.extractLsb' 0 7).setWidth 8 = d := by decide

/-- A byte that passes the mask of LOCATE's row is its own low 3 bits. -/
theorem setWidth_extractLsb'_of_syndrome_mask :
    ∀ {d : BitVec 8}, d &&& 0xF8#8 = 0#8 → (d.extractLsb' 0 3).setWidth 8 = d := by decide

theorem of_ite_eq_ok {c : Prop} [Decidable c] {i j : Instr} {r : Reject}
    (h : (if c then .ok j else .error r : Except Reject Instr) = .ok i) : c ∧ j = i := by
  split at h
  next hc => exact ⟨hc, Except.ok.inj h⟩
  next => cases h

/-- A word {D, P, OPC} that decodes to a command has that command's fields. -/
theorem fields_of_decode_word {d : BitVec 8} {p opc : BitVec 4} {i : Instr} (h : decode ((d ++ p) ++ opc) = .ok i) :
    i.dOperand = d ∧ i.pOperand = p ∧ i.opcode = opc := by
  rw [decode_word] at h
  have hopc {k : Nat} (hk : opc.toNat = k) : BitVec.ofNat 4 k = opc := by
    rw [← hk, BitVec.ofNat_toNat, BitVec.setWidth_eq]
  split at h
  case h_1 hk | h_9 hk | h_10 hk =>
    obtain ⟨⟨hd, hp⟩, rfl⟩ := of_ite_eq_ok h
    exact ⟨hd.symm, hp.symm, hopc hk⟩
  case h_2 hk | h_3 hk | h_5 hk =>
    obtain ⟨⟨hd, hp⟩, rfl⟩ := of_ite_eq_ok h
    exact ⟨setWidth_extractLsb'_of_word7_mask hd, hp.symm, hopc hk⟩
  case h_4 hk =>
    obtain ⟨⟨hd, hp⟩, rfl⟩ := of_ite_eq_ok h
    exact ⟨setWidth_extractLsb'_of_syndrome_mask hd, hp.symm, hopc hk⟩
  case h_6 hk | h_7 hk =>
    cases h
    exact ⟨rfl, rfl, hopc hk⟩
  case h_8 hk =>
    obtain ⟨hd, rfl⟩ := of_ite_eq_ok h
    exact ⟨hd.symm, rfl, hopc hk⟩
  case h_11 => cases h

/-- Settles O3: the word is the concatenation of its fields, and they are the fields of the command it decodes to. -/
theorem encodeOfDecodeIsTheWord : Obligations.EncodeOfDecodeIsTheWord := by
  intro w i h
  rw [← word_of_fields w] at h
  obtain ⟨hd, hp, hopc⟩ := fields_of_decode_word h
  rw [encode, hd, hp, hopc, word_of_fields]

/-- Settles O1: each example word is the word of its command. -/
theorem assemblyExamplesDecode : Obligations.AssemblyExamplesDecode :=
  have h := decodeOfEncodeIsTheCommand
  ⟨h .nop, h (.parity 0x34#7), h (.syndrome 0x01#7), h (.locate 5#3), h (.correct 0x01#7), h (.inject 0x00#8 8#4),
    h (.process 0xAA#8 8#4), h (.split 15#4), h .run, h .clrerr⟩

/-- R74: concatenation is the sum of the fields at their weights. -/
theorem word_eq_fieldSum (d : BitVec 8) (p opc : BitVec 4) :
    word d p opc = d.setWidth 16 * 256#16 + p.setWidth 16 * 16#16 + opc.setWidth 16 := by
  apply BitVec.eq_of_toNat_eq
  have hd := d.isLt
  have hp := p.isLt
  have ho := opc.isLt
  rw [word, BitVec.toNat_append, BitVec.toNat_append, ← Nat.shiftLeft_add_eq_or_of_lt hp,
    ← Nat.shiftLeft_add_eq_or_of_lt ho]
  simp only [Nat.shiftLeft_eq, BitVec.toNat_add, BitVec.toNat_mul, BitVec.toNat_setWidth, BitVec.toNat_ofNat]
  omega

/-- The word of a command whose only operand is zero-extended into D. -/
theorem word_setWidth_eq_fieldSum {n : Nat} (hn : n ≤ 8) (x : BitVec n) (opc : BitVec 4) :
    word (x.setWidth 8) 0#4 opc = x.setWidth 16 * 256#16 + opc.setWidth 16 := by
  rw [word_eq_fieldSum, BitVec.setWidth_setWidth (by omega)]
  simp

/-- Settles O4: each command's word is the sum of its fields, an absent one adding nothing. -/
theorem encodedWordIsTheFieldSum : Obligations.EncodedWordIsTheFieldSum := by
  have word7 (w : Word7) := word_setWidth_eq_fieldSum (by decide) w
  refine ⟨rfl, fun w => word7 w 0x1#4, fun w => word7 w 0x2#4, fun e => word_setWidth_eq_fieldSum (by decide) e 0x3#4,
    fun w => word7 w 0x4#4, fun b p => word_eq_fieldSum b p 0x5#4, fun b p => word_eq_fieldSum b p 0x6#4,
    fun idx => ?_, rfl, rfl⟩
  calc encode (.split idx) = 0#16 + idx.setWidth 16 * 16#16 + 7#16 := word_eq_fieldSum 0#8 idx 0x7#4
    _ = idx.setWidth 16 * 16#16 + 7#16 := by rw [BitVec.zero_add]

/-! ## Operands as they are written (30_encoding.md R79) -/

theorem wellFormed_quoted {n : Nat} {cs : List Char} :
    (AsmOperand.quoted cs).wellFormed n = true ↔ cs.length = n ∧ ∀ c ∈ cs, c = '0' ∨ c = '1' := by
  simp [AsmOperand.wellFormed, isBitChar_iff]

theorem wellFormed_hex {n k : Nat} : (AsmOperand.hex k).wellFormed n = true ↔ k < 2 ^ n := by
  simp [AsmOperand.wellFormed]

@[simp] theorem length_stringOf {n : Nat} (v : BitVec n) : (stringOf v).length = n := by simp [stringOf]

theorem getElem?_stringOf {n j : Nat} (v : BitVec n) (hj : j < n) :
    (stringOf v)[j]? = some (if v.getLsbD j then '1' else '0') := by simp [stringOf, hj]

theorem eq_zero_or_eq_one_of_mem_stringOf {n : Nat} {v : BitVec n} {c : Char} (h : c ∈ stringOf v) :
    c = '0' ∨ c = '1' := by
  obtain ⟨j, _, rfl⟩ := List.mem_map.mp h
  cases v.getLsbD j <;> simp

theorem getLsbD_eq_decide_stringOf {n j : Nat} (v : BitVec n) (hj : j < n) :
    v.getLsbD j = decide ((stringOf v)[j]? = some '1') := by
  rw [getElem?_stringOf v hj]
  cases v.getLsbD j <;> simp

theorem stringOf_injective {n : Nat} {v v' : BitVec n} (h : stringOf v = stringOf v') : v = v' :=
  BitVec.eq_of_getLsbD_eq fun j hj => by
    rw [getLsbD_eq_decide_stringOf v hj, h, ← getLsbD_eq_decide_stringOf v' hj]

/-- A quoted operand denotes the value whose string it is. -/
theorem denotes_quoted {n : Nat} {cs : List Char} {v : BitVec n} : denotes (.quoted cs) v ↔ stringOf v = cs := by
  constructor
  · rintro ⟨hlen, hchars⟩
    refine List.ext_getElem? fun j => ?_
    by_cases hj : j < n
    · rw [hchars j hj, getElem?_stringOf v hj]
    · rw [List.getElem?_eq_none (by simp; omega), List.getElem?_eq_none (by omega)]
  · rintro rfl
    exact ⟨length_stringOf v, fun j hj => getElem?_stringOf v hj⟩

/-- An operand denotes a value exactly when the model accepts it and reads that value. -/
theorem denotes_iff {n : Nat} {o : AsmOperand} {v : BitVec n} :
    denotes o v ↔ o.wellFormed n = true ∧ operandValue n o = v := by
  cases o with
  | quoted cs =>
    rw [denotes_quoted, wellFormed_quoted]
    constructor
    · rintro rfl
      have hbits : ∀ c ∈ stringOf v, c = '0' ∨ c = '1' := fun c => eq_zero_or_eq_one_of_mem_stringOf
      exact ⟨⟨length_stringOf v, hbits⟩, stringOf_injective (stringOf_natOfChars (length_stringOf v) hbits)⟩
    · rintro ⟨⟨hlen, hbits⟩, rfl⟩
      exact stringOf_natOfChars hlen hbits
  | hex k =>
    rw [wellFormed_hex]
    constructor
    · rintro rfl
      exact ⟨v.isLt, BitVec.eq_of_toNat_eq (Nat.mod_eq_of_lt v.isLt)⟩
    · rintro ⟨hk, rfl⟩
      exact (Nat.mod_eq_of_lt hk).symm

theorem exists_denotes_iff {n : Nat} {o : AsmOperand} : (∃ v : BitVec n, denotes o v) ↔ o.wellFormed n = true := by
  simp [denotes_iff]

theorem not_denotes_iff {n : Nat} {o : AsmOperand} : (∀ v : BitVec n, ¬ denotes o v) ↔ o.wellFormed n = false := by
  rw [← not_exists, exists_denotes_iff, Bool.not_eq_true]

/-! ## Lines (30_encoding.md R79, R80) -/

theorem assembleWord_of_wellFormed {l : AsmLine} {i : Instr} (h : l.wellFormed = true) (hi : lineInstr l = some i) :
    assembleWord l = some (encode i) := by rw [assembleWord, if_pos h, hi, Option.map_some]

theorem assembleWord_of_refused {l : AsmLine} (h : l.wellFormed = false) : assembleWord l = none :=
  if_neg (Bool.not_eq_true _ ▸ h)

theorem lineAction_of_refused {l : AsmLine} (h : l.wellFormed = false) : lineAction l = none :=
  if_neg (Bool.not_eq_true _ ▸ h)

theorem assembleWord_eq_some {l : AsmLine} {w : CmdWord} (h : assembleWord l = some w) :
    l.wellFormed = true ∧ ∃ i, lineInstr l = some i ∧ encode i = w := by
  simpa [assembleWord] using h

theorem assembleWord_of_hostLine {l : AsmLine} (h : lineInstr l = none) : assembleWord l = none := by
  simp [assembleWord, h]

/-- The host issues the word of an accepted command line. -/
theorem lineAction_of_lineInstr {l : AsmLine} {i : Instr} (h : l.wellFormed = true) (hi : lineInstr l = some i) :
    lineAction l = some (.write .cmd 16 (encode i)) := by
  have hw := assembleWord_of_wellFormed h hi
  cases l with
  | writePayload | writePosvec | read => cases hi
  | _ => exact (if_pos h).trans (congrArg (Option.map _) hw)

/-- A 7-bit word in D has D[7] = 0 (R73). -/
theorem setWidth_word7 (w : Word7) : w.setWidth 8 = 0#1 ++ w := BitVec.setWidth_eq_append (by decide)

theorem wordLines_of_denotes {o : AsmOperand} {v : Word7} (h : denotes o v) :
    assembleWord (.parity o) = some (word (0#1 ++ v) 0#4 0x1#4) ∧
      assembleWord (.syndrome o) = some (word (0#1 ++ v) 0#4 0x2#4) ∧
      assembleWord (.correct o) = some (word (0#1 ++ v) 0#4 0x4#4) := by
  obtain ⟨hwf, rfl⟩ := denotes_iff.mp h
  rw [← setWidth_word7]
  exact ⟨assembleWord_of_wellFormed (i := .parity _) hwf rfl, assembleWord_of_wellFormed (i := .syndrome _) hwf rfl,
    assembleWord_of_wellFormed (i := .correct _) hwf rfl⟩

theorem wordLines_of_not_denotes {o : AsmOperand} (h : ∀ v : Word7, ¬ denotes o v) :
    assembleWord (.parity o) = none ∧ assembleWord (.syndrome o) = none ∧ assembleWord (.correct o) = none := by
  have hwf := not_denotes_iff.mp h
  exact ⟨assembleWord_of_refused hwf, assembleWord_of_refused hwf, assembleWord_of_refused hwf⟩

theorem locateLine_of_lt {e : Nat} (he : e < 8) :
    assembleWord (.locate e) = some (word (BitVec.ofNat 8 e) 0#4 0x3#4) := by
  rw [← BitVec.setWidth_ofNat_of_le_of_lt (w := 3) (by decide) he]
  exact assembleWord_of_wellFormed (i := .locate _) (decide_eq_true he) rfl

/-- The test on the lines of INJECT and PROCESS, whose operands have the same ranges. -/
theorem blockLine_wellFormed {o : AsmOperand} {p : Nat} :
    (o.wellFormed 8 && decide (p < 16)) = true ↔ o.wellFormed 8 = true ∧ p < 16 := by
  rw [Bool.and_eq_true, decide_eq_true_iff]

theorem blockLines_of_denotes {o : AsmOperand} {v : Block} {p : Nat} (h : denotes o v) (hp : p < 16) :
    assembleWord (.inject o p) = some (word v (BitVec.ofNat 4 p) 0x5#4) ∧
      assembleWord (.process o p) = some (word v (BitVec.ofNat 4 p) 0x6#4) := by
  obtain ⟨hwf, rfl⟩ := denotes_iff.mp h
  have hline := blockLine_wellFormed.mpr ⟨hwf, hp⟩
  exact ⟨assembleWord_of_wellFormed (i := .inject _ _) hline rfl,
    assembleWord_of_wellFormed (i := .process _ _) hline rfl⟩

theorem blockLines_of_bad_operand {o : AsmOperand} {p : Nat} (h : 16 ≤ p ∨ ∀ v : Block, ¬ denotes o v) :
    assembleWord (.inject o p) = none ∧ assembleWord (.process o p) = none := by
  have hline : (o.wellFormed 8 && decide (p < 16)) = false := by
    rcases h with hp | ho
    · rw [decide_eq_false (by omega), Bool.and_false]
    · rw [not_denotes_iff.mp ho, Bool.false_and]
  exact ⟨assembleWord_of_refused hline, assembleWord_of_refused hline⟩

/-! ## Position lists (10_state.md R25, 30_encoding.md R80) -/

/-- A position list is a number in base 16, its first entry the lowest digit. -/
theorem natOfPositions_eq_ofDigits (ps : List Nat) : natOfPositions ps = Nat.ofDigits 16 ps := by
  induction ps with
  | nil => rfl
  | cons p ps ih => rw [natOfPositions, ih, Nat.ofDigits_cons]

/-- Entry i of a position list stands at bits 4i+3:4i. -/
theorem natOfPositions_digit {ps : List Nat} (hps : ∀ p ∈ ps, p < 16) {i : Nat} (hi : i < ps.length) :
    natOfPositions ps / 16 ^ i % 16 = ps[i] := by
  rw [natOfPositions_eq_ofDigits, Nat.ofDigits_div_pow_eq_ofDigits_drop i (by decide) ps hps,
    List.drop_eq_getElem_cons hi, Nat.ofDigits_cons, Nat.add_mul_mod_self_left]
  exact Nat.mod_eq_of_lt (hps _ (List.getElem_mem hi))

theorem natOfPositions_lt {ps : List Nat} (hps : ∀ p ∈ ps, p < 16) : natOfPositions ps < 16 ^ ps.length :=
  natOfPositions_eq_ofDigits ps ▸ Nat.ofDigits_lt_base_pow_length (by decide) hps

theorem toNat_posField (q : PosVec) (i : Nat) : (posField q i).toNat = q.toNat / 16 ^ i % 16 := by
  rw [posField, BitVec.extractLsb'_toNat, Nat.shiftRight_eq_div_pow, Nat.pow_mul]

/-- POS_i of the value written is entry i of an accepted list. -/
theorem posField_natOfPositions {ps : List Nat} (hlen : ps.length = 16) (hps : ∀ p ∈ ps, p < 16) (i : BlockIndex) :
    ps[i.val]? = some (posField (BitVec.ofNat 64 (natOfPositions ps)) i).toNat := by
  have hi : i.val < ps.length := hlen ▸ i.isLt
  have hlt : natOfPositions ps < 2 ^ 64 := by simpa [hlen] using natOfPositions_lt hps
  rw [toNat_posField, BitVec.toNat_ofNat, Nat.mod_eq_of_lt hlt, natOfPositions_digit hps hi,
    List.getElem?_eq_getElem hi]

theorem wellFormed_writePosvec {ps : List Nat} :
    (AsmLine.writePosvec ps).wellFormed = true ↔ ps.length = 16 ∧ ∀ p ∈ ps, p < 16 := by
  simp [AsmLine.wellFormed]

/-! ## Host-action lines (30_encoding.md R80) -/

theorem payloadLine_of_denotes {o : AsmOperand} {x : Payload} (h : denotes o x) :
    lineAction (.writePayload o) = some (.write .payload 128 x) := by
  obtain ⟨hwf, rfl⟩ := denotes_iff.mp h
  exact if_pos hwf

theorem posvecLine_of_positions {ps : List Nat} (hlen : ps.length = 16) (hps : ∀ p ∈ ps, p < 16) :
    ∃ q : PosVec, lineAction (.writePosvec ps) = some (.write .posvec 64 q) ∧
      ∀ i : BlockIndex, ps[i.val]? = some (posField q i).toNat :=
  ⟨_, if_pos (wellFormed_writePosvec.mpr ⟨hlen, hps⟩), posField_natOfPositions hlen hps⟩

theorem posvecLine_of_bad_list {ps : List Nat} (h : ps.length ≠ 16 ∨ ∃ p ∈ ps, 16 ≤ p) :
    lineAction (.writePosvec ps) = none := by
  refine if_neg fun hwf => ?_
  obtain ⟨hlen, hps⟩ := wellFormed_writePosvec.mp hwf
  rcases h with hne | ⟨p, hp, hge⟩
  · exact hne hlen
  · exact absurd (hps p hp) (by omega)

theorem readLine (r : Reg) : lineAction (.read r) = if r = .cmd then none else some (.read r r.width) := by
  by_cases hr : r = .cmd
  · rw [if_pos hr]
    exact lineAction_of_refused (decide_eq_false (not_not.mpr hr))
  · rw [if_neg hr]
    exact if_pos (decide_eq_true hr)

/-- The word of an accepted line is what the host issues, and it decodes to the line's command. -/
theorem issued_and_decodes_of_assembleWord {l : AsmLine} {w : CmdWord} (h : assembleWord l = some w) :
    l.wellFormed = true ∧ lineAction l = some (.write .cmd 16 w) ∧ ∃ i, lineInstr l = some i ∧ decode w = .ok i := by
  obtain ⟨hwf, i, hi, rfl⟩ := assembleWord_eq_some h
  exact ⟨hwf, lineAction_of_lineInstr hwf hi, i, hi, decodeOfEncodeIsTheCommand i⟩

/-- Settles O6, clause by clause: the operands, the accepted and the refused command lines, what the host issues, and the
host-action lines. -/
theorem acceptedLinesDecodeToTheirCommands : Obligations.AcceptedLinesDecodeToTheirCommands :=
  ⟨-- the operands
    fun _ _ => exists_denotes_iff.trans wellFormed_quoted, fun _ _ => exists_denotes_iff.trans wellFormed_hex,
    -- the accepted command lines
    assembleWord_of_wellFormed (i := .nop) rfl rfl,
    fun _ _ => wordLines_of_denotes,
    fun _ => locateLine_of_lt,
    fun _ _ _ => blockLines_of_denotes,
    fun _ hidx => assembleWord_of_wellFormed (i := .split _) (decide_eq_true hidx) rfl,
    assembleWord_of_wellFormed (i := .run) rfl rfl,
    assembleWord_of_wellFormed (i := .clrerr) rfl rfl,
    -- the refused command lines
    fun _ => wordLines_of_not_denotes,
    fun _ he => assembleWord_of_refused (decide_eq_false he.not_gt),
    fun _ _ => blockLines_of_bad_operand,
    fun _ hidx => assembleWord_of_refused (decide_eq_false hidx.not_gt),
    -- what the host does for a line
    fun _ _ => issued_and_decodes_of_assembleWord,
    fun _ hwf => ⟨assembleWord_of_refused hwf, lineAction_of_refused hwf⟩,
    -- the host-action lines
    fun _ => ⟨assembleWord_of_hostLine rfl, fun _ => payloadLine_of_denotes,
      fun ho => lineAction_of_refused (not_denotes_iff.mp ho)⟩,
    fun _ => ⟨assembleWord_of_hostLine rfl, posvecLine_of_positions, posvecLine_of_bad_list⟩,
    fun r => ⟨assembleWord_of_hostLine rfl, readLine r⟩⟩

end Sys2Proof.Proofs

/-!
Proofs of the statements about the splitter (41_splitter.md): O21, O40. The 16 blocks concatenate to AGG_ORIG of a RUN on
the payload, and SPLIT is read through its two outcomes, one for each answer of `payloadOperand`.
-/

namespace Sys2Proof.Proofs

open Sys2Proof.Machine Sys2Proof.Safety Sys2Proof.Claim

/-! ## The splitter function (R100) -/

/-- The blocks of a payload are the originals of its lanes, whatever the positions. -/
theorem concatBlocks_split (x : Payload) : concatBlocks (fun i => split x i) = x := aggregateOrig_lane x 0#64

/-- Settles O21: the concatenation is `concatBlocks` of the blocks, and the bits of a block are `getLsbD_split`. -/
theorem blocksConcatenateToThePayload : Obligations.BlocksConcatenateToThePayload := by
  intro x
  refine ⟨concatBlocks_split x, fun i k _ hk => ?_⟩
  rw [getLsbD_split, decide_eq_true hk, Bool.true_and]

/-! ## SPLIT (R101) -/

/-- SPLIT completes with the block when it can read PAYLOAD. -/
theorem exec_split_of_some {s : State} {x : Payload} (idx : Nibble) (h : payloadOperand s = some x) :
    exec (.split idx) s = .next (completedWith ((split x idx.toNat).setWidth 16) s) := by
  simp only [exec, execSplit, h]
  rfl

/-- SPLIT raises MissingInput when it cannot read PAYLOAD. -/
theorem exec_split_of_none {s : State} (idx : Nibble) (h : payloadOperand s = none) :
    exec (.split idx) s = .next (faulted 1#4 0#4 s) := by
  simp only [exec, execSplit, h]
  rfl

/-- SPLIT records no code but 0 and that of MissingInput. -/
theorem lastErr_of_exec_split {idx : Nibble} {s t : State} (h : exec (.split idx) s = .next t) :
    t.lastErr = 0#4 ∨ t.lastErr = 1#4 := by
  cases hx : payloadOperand s with
  | some x =>
    obtain rfl := Host.Outcome.next.inj ((exec_split_of_some idx hx).symm.trans h)
    exact .inl rfl
  | none =>
    obtain rfl := Host.Outcome.next.inj ((exec_split_of_none idx hx).symm.trans h)
    exact .inr rfl

/-- A word of OPC 7 with a bit of D set decodes to nothing (30_encoding.md R75). -/
theorem decode_split_word_of_ne {d : BitVec 8} (idx : Nibble) (hd : d ≠ 0#8) :
    decode (word d idx 0x7#4) = .error .reservedFieldBit :=
  (decode_word d idx 0x7#4).trans (if_neg hd)

/-- Settles O40: the outcomes are those of `payloadOperand`, and the word with D = 0 is that of `encode`. The worked
example is block 15 of its payload. -/
theorem splitCommand : Obligations.SplitCommand := by
  have hread : ∀ (idx : Nibble) (x : Payload) (s : State), s.payloadV = true → s.payload = some x →
      exec (.split idx) s = .next (completedWith ((split x idx.toNat).setWidth 16) s) :=
    fun idx _ _ hv hx => exec_split_of_some idx (payloadOperand_eq_some.mpr ⟨hv, hx⟩)
  have hword : ∀ (idx : Nibble) (s : State), execute (word 0#8 idx 0x7#4) s = exec (.split idx) s :=
    fun idx => execute_of_decode (decodeOfEncodeIsTheCommand (.split idx))
  refine ⟨hread, fun idx s hv => exec_split_of_none idx (payloadOperand_eq_none.mpr (.inl hv)), hword,
    fun d idx s hd => execute_of_reject (decode_split_word_of_ne idx hd) s, fun idx s t h => ?neverCode3,
    fun s hv hx => ?workedExample⟩
  case neverCode3 =>
    rcases lastErr_of_exec_split h with he | he <;> rw [he] <;> decide
  case workedExample =>
    exact (hword 15#4 s).trans (hread 15#4 _ s hv hx)

end Sys2Proof.Proofs

/-!
Proofs of the statements about the codec (42_codec.md): O34, O35, O36, O22, O23, O24, O25, O26, O27. The syndrome is
linear and takes the mask of a position to that position (`syndrome7_xor`, `syndrome7_locate`); the guarantee and the
perfect code follow from these two.
-/

namespace Sys2Proof.Proofs

open Sys2Proof.Machine Sys2Proof.Safety Sys2Proof.Claim

/-! ## Parity and syndrome bit by bit (R111, R112, R117) -/

/-- The bits of a vector {c, b, a}. -/
theorem getLsbD_threeBits : ∀ a b c : Bool,
    let v : BitVec 3 := BitVec.ofBool c ++ BitVec.ofBool b ++ BitVec.ofBool a
    v.getLsbD 0 = a ∧ v.getLsbD 1 = b ∧ v.getLsbD 2 = c := by decide

theorem toNat_threeBits : ∀ a b c : Bool,
    (BitVec.ofBool c ++ BitVec.ofBool b ++ BitVec.ofBool a : BitVec 3).toNat = a.toNat + 2 * b.toNat + 4 * c.toNat := by
  decide

theorem getLsbD_parity7 (w : Word7) :
    (parity7 w).getLsbD 0 = parityBit1 w ∧ (parity7 w).getLsbD 1 = parityBit2 w ∧
      (parity7 w).getLsbD 2 = parityBit4 w :=
  getLsbD_threeBits _ _ _

theorem getLsbD_syndrome7 (w : Word7) :
    (syndrome7 w).getLsbD 0 = syndromeBit1 w ∧ (syndrome7 w).getLsbD 1 = syndromeBit2 w ∧
      (syndrome7 w).getLsbD 2 = syndromeBit3 w :=
  getLsbD_threeBits _ _ _

/-- Two syndromes are equal when their three bits are. -/
theorem eq_of_threeBits_eq {e e' : Syndrome} (h0 : e.getLsbD 0 = e'.getLsbD 0) (h1 : e.getLsbD 1 = e'.getLsbD 1)
    (h2 : e.getLsbD 2 = e'.getLsbD 2) : e = e' := by
  apply BitVec.eq_of_getLsbD_eq
  intro k hk
  match k, hk with
  | 0, _ => exact h0
  | 1, _ => exact h1
  | 2, _ => exact h2

/-- Settles O22: the groups are those of the model's bits, and the weights those of a 3-bit vector. -/
theorem syndromeIsTheWeightedSum : Obligations.SyndromeIsTheWeightedSum := fun w =>
  ⟨toNat_threeBits _ _ _, rfl, Nat.le_of_lt_succ (syndrome7 w).isLt⟩

/-- Settles O24: each syndrome group is the group of the parity bit with the stored bit in front. -/
theorem syndromeIsStoredXorRecomputedParity : Obligations.SyndromeIsStoredXorRecomputedParity := by
  intro w
  obtain ⟨hs1, hs2, hs3⟩ := getLsbD_syndrome7 w
  obtain ⟨hp1, hp2, hp4⟩ := getLsbD_parity7 w
  rw [hs1, hs2, hs3, hp1, hp2, hp4]
  simp only [syndromeBit1, syndromeBit2, syndromeBit3, parityBit1, parityBit2, parityBit4, Bool.xor_assoc, and_self]

/-! ## The locator (R113) -/

/-- The mask of position s has bit s-1 and no other, and that of position 0 has none. -/
theorem getLsbD_onehot7 {s : Nat} (hs : s ≤ 7) (k : Nat) : (onehot7 s).getLsbD k = decide (s ≠ 0 ∧ k = s - 1) := by
  unfold onehot7
  split
  next h0 => simp [h0]
  next h0 =>
    rw [← BitVec.twoPow_eq, BitVec.getLsbD_twoPow]
    have hbound : (s - 1 < 7 ∧ s - 1 = k) ↔ (s ≠ 0 ∧ k = s - 1) := by omega
    rw [← Bool.decide_and, decide_eq_decide]
    exact hbound

/-- Settles O23: the table is computed, its bits are those of `onehot7`, and the corrector is written with the mask. -/
theorem locatorLookup : Obligations.LocatorLookup := by
  refine ⟨rfl, rfl, rfl, rfl, rfl, rfl, rfl, rfl, fun e k => ?_, fun w => rfl⟩
  have hzero : e.toNat ≠ 0 ↔ e ≠ 0#3 := BitVec.toNat_ne_iff_ne (y := 0#3)
  rw [locate, getLsbD_onehot7 (Nat.le_of_lt_succ e.isLt), decide_eq_decide, hzero]

/-- A mask has at most one bit. -/
theorem popcount_locate_le_one : ∀ e : Syndrome, popcount (locate e) ≤ 1 := by decide

/-! ## Linearity and the guarantee (R118, R120) -/

/-- Each group of a sum of words is the sum of their groups. -/
theorem syndromeBits_xor (v w : Word7) :
    syndromeBit1 (v ^^^ w) = (syndromeBit1 v ^^ syndromeBit1 w) ∧
      syndromeBit2 (v ^^^ w) = (syndromeBit2 v ^^ syndromeBit2 w) ∧
      syndromeBit3 (v ^^^ w) = (syndromeBit3 v ^^ syndromeBit3 w) := by
  simp only [syndromeBit1, syndromeBit2, syndromeBit3, BitVec.getLsbD_xor, Bool.xor_assoc, Bool.xor_left_comm, and_self]

theorem syndrome7_xor (v w : Word7) : syndrome7 (v ^^^ w) = syndrome7 v ^^^ syndrome7 w := by
  obtain ⟨hx1, hx2, hx3⟩ := syndromeBits_xor v w
  obtain ⟨hv1, hv2, hv3⟩ := getLsbD_syndrome7 v
  obtain ⟨hw1, hw2, hw3⟩ := getLsbD_syndrome7 w
  obtain ⟨h1, h2, h3⟩ := getLsbD_syndrome7 (v ^^^ w)
  apply eq_of_threeBits_eq
  · rw [h1, hx1, BitVec.getLsbD_xor, hv1, hw1]
  · rw [h2, hx2, BitVec.getLsbD_xor, hv2, hw2]
  · rw [h3, hx3, BitVec.getLsbD_xor, hv3, hw3]

/-- The syndrome of a mask is the position it stands for, 0 included. -/
theorem syndrome7_locate : ∀ e : Syndrome, syndrome7 (locate e) = e := by decide

/-- Flipping position p, or none for p = 0, changes the syndrome by XOR with p. -/
theorem syndrome7_xor_locate (w : Word7) (p : Syndrome) : syndrome7 (w ^^^ locate p) = syndrome7 w ^^^ p := by
  rw [syndrome7_xor, syndrome7_locate]

/-- Settles O25: `syndrome7_xor_locate` and `syndrome7_locate`, which hold for p = 0 as well. -/
theorem syndromeIsLinear : Obligations.SyndromeIsLinear :=
  ⟨fun w p _ => syndrome7_xor_locate w p, fun p _ => syndrome7_locate p⟩

/-- Settles O27: a codeword contributes 0 to the syndrome, so p alone remains. -/
theorem syndromeGuarantee : Obligations.SyndromeGuarantee := by
  intro c p hc hp
  have hflip : syndrome7 (c ^^^ locate p) = p := by rw [syndrome7_xor_locate, hc, BitVec.zero_xor]
  exact ⟨hflip, fun hcode => hp (hflip.symm.trans hcode)⟩

/-! ## The codewords (R119) -/

/-- The corrector's word is a codeword: its mask cancels the syndrome. -/
theorem syndrome7_correct7 (w : Word7) : syndrome7 (correct7 w) = 0#3 := by
  rw [correct7, syndrome7_xor_locate, BitVec.xor_self]

/-- A word with at most one bit set is the mask of its own syndrome. -/
theorem eq_locate_of_popcount_le_one : ∀ {v : Word7}, popcount v ≤ 1 → v = locate (syndrome7 v) := by decide

/-- A codeword at distance 0 or 1 from a word is what the corrector makes of the word. -/
theorem eq_correct7_of_near_codeword {w c : Word7} (hc : syndrome7 c = 0#3) (hnear : popcount (w ^^^ c) ≤ 1) :
    c = correct7 w := by
  have hmask : w ^^^ c = locate (syndrome7 w) :=
    calc w ^^^ c = locate (syndrome7 (w ^^^ c)) := eq_locate_of_popcount_le_one hnear
      _ = locate (syndrome7 w) := by rw [syndrome7_xor, hc, BitVec.xor_zero]
  rw [correct7, ← hmask, ← BitVec.xor_assoc, BitVec.xor_self, BitVec.zero_xor]

/-- The distance from a word to the corrector's word is the weight of the mask. -/
theorem popcount_xor_correct7_le_one (w : Word7) : popcount (w ^^^ correct7 w) ≤ 1 := by
  rw [correct7, ← BitVec.xor_assoc, BitVec.xor_self, BitVec.zero_xor]
  exact popcount_locate_le_one _

theorem syndrome7_eq_zero_iff_mem_list : ∀ w : Word7, syndrome7 w = 0#3 ↔
    w ∈ [0x00#7, 0x07#7, 0x19#7, 0x1E#7, 0x2A#7, 0x2D#7, 0x33#7, 0x34#7, 0x4B#7, 0x4C#7, 0x52#7, 0x55#7, 0x61#7,
      0x66#7, 0x78#7, 0x7F#7] := by decide

/-- Settles O26: the list is checked word by word; the one codeword near a word is `correct7` of it; and a stored bit that
equals the recomputed parity cancels it in the syndrome (O24). -/
theorem theSixteenCodewords : Obligations.TheSixteenCodewords := by
  refine ⟨syndrome7_eq_zero_iff_mem_list,
    fun w => ⟨correct7 w, ⟨syndrome7_correct7 w, popcount_xor_correct7_le_one w⟩,
      fun _ hc hnear => eq_correct7_of_near_codeword hc hnear⟩, fun w h1 h2 h4 => ?storedParity⟩
  case storedParity =>
    obtain ⟨hs1, hs2, hs3⟩ := syndromeIsStoredXorRecomputedParity w
    rw [h1, Bool.xor_self] at hs1
    rw [h2, Bool.xor_self] at hs2
    rw [h4, Bool.xor_self] at hs3
    exact eq_of_threeBits_eq hs1 hs2 hs3

/-! ## Words with a reserved field bit set (30_encoding.md R75, R76) -/

theorem and_ne_zero_of_getLsbD_seven {d : BitVec 8} (hd : d.getLsbD 7 = true) : d &&& 0x80#8 ≠ 0#8 := by
  intro h
  rw [← setWidth_extractLsb'_of_word7_mask h] at hd
  simp at hd

theorem and_ne_zero_of_eight_le {d : BitVec 8} (hd : 8 ≤ d.toNat) : d &&& 0xF8#8 ≠ 0#8 := by
  intro h
  have hlow : d.toNat = (d.extractLsb' 0 3).toNat := by
    rw [← BitVec.toNat_setWidth_of_le (by decide : 3 ≤ 8), setWidth_extractLsb'_of_syndrome_mask h]
  have := (d.extractLsb' 0 3).isLt
  omega

/-- The commands with a 7-bit word as operand: PARITY, SYNDROME and CORRECT. -/
theorem execute_word7_row_of_reserved {opc : BitVec 4} (hopc : opc = 0x1#4 ∨ opc = 0x2#4 ∨ opc = 0x4#4)
    (d : BitVec 8) (p : BitVec 4) (s : State) (h : p ≠ 0#4 ∨ d.getLsbD 7 = true) :
    execute (word d p opc) s = .next (faulted 5#4 0#4 s) := by
  have hmask : ¬ (d &&& 0x80#8 = 0#8 ∧ p = 0#4) := fun ⟨hd, hp⟩ =>
    h.elim (· hp) fun h7 => and_ne_zero_of_getLsbD_seven h7 hd
  have hreject : decode (word d p opc) = .error .reservedFieldBit := by
    rcases hopc with rfl | rfl | rfl <;> exact (decode_word d p _).trans (if_neg hmask)
  exact execute_of_reject hreject s

theorem execute_locate_row_of_reserved (d : BitVec 8) (p : BitVec 4) (s : State) (h : p ≠ 0#4 ∨ 8 ≤ d.toNat) :
    execute (word d p 0x3#4) s = .next (faulted 5#4 0#4 s) := by
  have hmask : ¬ (d &&& 0xF8#8 = 0#8 ∧ p = 0#4) := fun ⟨hd, hp⟩ =>
    h.elim (· hp) fun h8 => and_ne_zero_of_eight_le h8 hd
  have hreject : decode (word d p 0x3#4) = .error .reservedFieldBit :=
    (decode_word d p 0x3#4).trans (if_neg hmask)
  exact execute_of_reject hreject s

/-! ## PARITY (R114) -/

/-- The encoder reads W[2], W[4], W[5] and W[6] alone. -/
theorem parity7_and_dataMask (w : Word7) : parity7 (w &&& 0x74#7) = parity7 w := by
  simp [parity7, parityBit1, parityBit2, parityBit4]

theorem parity7_eq_of_data_eq {w w' : Word7} (h : w &&& 0x74#7 = w' &&& 0x74#7) : parity7 w = parity7 w' := by
  rw [← parity7_and_dataMask w, h, parity7_and_dataMask]

theorem exec_parity (w : Word7) (s : State) :
    exec (.parity w) s = .next (completedWith ((parity7 w).setWidth 16) s) := rfl

theorem execute_parity_word (w : Word7) (s : State) : execute (word (0#1 ++ w) 0#4 0x1#4) s = exec (.parity w) s := by
  rw [← setWidth_word7]
  exact execute_of_decode (decodeOfEncodeIsTheCommand (.parity w)) s

/-- Settles O34: RESULT is `exec_parity`, whose groups are the model's bits; the worked example is W = 0x40. -/
theorem parityCommand : Obligations.ParityCommand :=
  ⟨exec_parity, execute_parity_word, execute_word7_row_of_reserved (.inl rfl),
    fun w w' s h => by rw [exec_parity, exec_parity, parity7_eq_of_data_eq h],
    fun s => (execute_parity_word 0x40#7 s).trans (exec_parity 0x40#7 s)⟩

/-! ## SYNDROME (R115) -/

theorem exec_syndrome (w : Word7) (s : State) :
    exec (.syndrome w) s = .next (completedWith ((syndrome7 w).setWidth 16) s) := rfl

theorem execute_syndrome_word (w : Word7) (s : State) :
    execute (word (0#1 ++ w) 0#4 0x2#4) s = exec (.syndrome w) s := by
  rw [← setWidth_word7]
  exact execute_of_decode (decodeOfEncodeIsTheCommand (.syndrome w)) s

/-- SYNDROME ends with RESULT = e exactly when e is the syndrome. -/
theorem exec_syndrome_eq_iff {w : Word7} {s : State} {e : Syndrome} :
    exec (.syndrome w) s = .next (completedWith (e.setWidth 16) s) ↔ syndrome7 w = e := by
  rw [exec_syndrome]
  constructor
  · intro h
    have hresult : (syndrome7 w).setWidth 16 = e.setWidth 16 := congrArg State.result (Host.Outcome.next.inj h)
    rw [← extractLsb'_setWidth_self (m := 16) (by decide) (syndrome7 w), hresult, extractLsb'_setWidth_self (by decide)]
  · rintro rfl
    rfl

/-- Settles O35: RESULT is the syndrome, which is 0 for the listed words (O26) and 7 after a flip at position 7 of a
codeword (O27); the worked example is W = 0x01. -/
theorem syndromeCommand : Obligations.SyndromeCommand :=
  ⟨exec_syndrome, execute_syndrome_word, execute_word7_row_of_reserved (.inr (.inl rfl)),
    fun w _ => (exec_syndrome_eq_iff (e := 0#3)).trans (syndrome7_eq_zero_iff_mem_list w),
    fun c _ hc => (exec_syndrome_eq_iff (e := 7#3)).mpr (syndromeGuarantee c 7#3 hc (by decide)).1,
    fun s => (execute_syndrome_word 0x01#7 s).trans (exec_syndrome 0x01#7 s)⟩

/-! ## LOCATE (R116) -/

theorem setWidth_locate : ∀ e : Syndrome,
    (locate e).setWidth 16 = if e = 0#3 then 0#16 else 1#16 <<< (e.toNat - 1) := by decide

theorem exec_locate (e : Syndrome) (s : State) :
    exec (.locate e) s = .next (completedWith (if e = 0#3 then 0#16 else 1#16 <<< (e.toNat - 1)) s) := by
  rw [← setWidth_locate]
  rfl

/-- A syndrome in D has D[7:3] = 0 (30_encoding.md R73). -/
theorem setWidth_syndrome (e : Syndrome) : e.setWidth 8 = 0#5 ++ e := BitVec.setWidth_eq_append (by decide)

theorem execute_locate_word (e : Syndrome) (s : State) :
    execute (word (0#5 ++ e) 0#4 0x3#4) s = exec (.locate e) s := by
  rw [← setWidth_syndrome]
  exact execute_of_decode (decodeOfEncodeIsTheCommand (.locate e)) s

/-- Settles O36: RESULT is the mask at 16 bits; the worked example is S = 5. -/
theorem locateCommand : Obligations.LocateCommand :=
  ⟨exec_locate, execute_locate_word, execute_locate_row_of_reserved,
    fun s => (execute_locate_word 5#3 s).trans (exec_locate 5#3 s)⟩

end Sys2Proof.Proofs

/-!
Proofs of the statements about the injector (43_injector.md): O38, O28. The injector XORs in a mask of one bit, that
of its position; INJECT is read through its two outcomes, one for each answer of `legalPos`.
-/

namespace Sys2Proof.Proofs

open Sys2Proof.Machine Sys2Proof.Safety Sys2Proof.Claim

/-! ## INJECT (R132) -/

/-- INJECT completes with the injector's block when its position is 1 to 8. -/
theorem exec_inject_of_legal {b : Block} {p : Nibble} (h : legalPos p = true) (s : State) :
    exec (.inject b p) s = .next (completedWith ((inject8 b p).setWidth 16) s) :=
  if_pos h

/-- INJECT raises InvalidErrorPosition when its position is 0 or 9 to 15. -/
theorem exec_inject_of_illegal {b : Block} {p : Nibble} (h : legalPos p = false) (s : State) :
    exec (.inject b p) s = .next (faulted 3#4 0#4 s) :=
  if_neg (Bool.eq_false_iff.mp h)

/-- Every word of OPC 5 is an INJECT: D and P are its operands, with no reserved bit (30_encoding.md R75). -/
theorem execute_inject_word (b : Block) (p : Nibble) (s : State) :
    execute (word b p 0x5#4) s = exec (.inject b p) s :=
  execute_of_decode (decode_word b p 0x5#4) s

/-- Settles O38: the outcomes are those of `legalPos`; the worked example is B = 0 with p = 8. -/
theorem injectCommand : Obligations.InjectCommand :=
  ⟨fun _ p s h1 h8 => exec_inject_of_legal ((legalPos_iff p).mpr ⟨h1, h8⟩) s,
    fun _ p s h => exec_inject_of_illegal ((legalPos_eq_false p).mpr h) s, execute_inject_word,
    fun s => (execute_inject_word 0x00#8 8#4 s).trans (exec_inject_of_legal (by decide) s)⟩

/-! ## The injector function (R131, R133) -/

/-- The mask of bit k has one bit. -/
theorem popcount_twoPow {n k : Nat} (hk : k < n) : popcount (BitVec.twoPow n k) = 1 := by
  have hbit : ∀ j ∈ List.range n, (BitVec.twoPow n k).getLsbD j = true ↔ (j == k) = true := by
    intro j _
    rw [BitVec.getLsbD_twoPow, decide_eq_true hk, Bool.true_and, decide_eq_true_eq, beq_iff_eq, eq_comm]
  calc popcount (BitVec.twoPow n k) = (List.range n).count k := List.countP_congr hbit
    _ = 1 := List.count_eq_one_of_mem List.nodup_range (List.mem_range.mpr hk)

/-- The injector XORs in the mask of bit p-1. -/
theorem inject8_eq_xor_twoPow (b : Block) (p : Nibble) : inject8 b p = b ^^^ BitVec.twoPow 8 (p.toNat - 1) := by
  rw [inject8, BitVec.twoPow_eq]

/-- A block and its injection differ in the mask. -/
theorem inject8_xor_self (b : Block) (p : Nibble) : inject8 b p ^^^ b = BitVec.twoPow 8 (p.toNat - 1) := by
  rw [inject8_eq_xor_twoPow, BitVec.xor_comm, ← BitVec.xor_assoc, BitVec.xor_self, BitVec.zero_xor]

theorem inject8_inject8 (b : Block) (p : Nibble) : inject8 (inject8 b p) p = b := by
  rw [inject8_eq_xor_twoPow, inject8_eq_xor_twoPow, BitVec.xor_assoc, BitVec.xor_self, BitVec.xor_zero]

/-- The low 7 bits of the injector's mask are the mask of 00_scope.md R14. -/
theorem extractLsb'_twoPow_eq_onehot7 {p : Nat} (h1 : 1 ≤ p) :
    (BitVec.twoPow 8 (p - 1)).extractLsb' 0 7 = onehot7 p := by
  rw [onehot7, if_neg (Nat.one_le_iff_ne_zero.mp h1), ← BitVec.twoPow_eq]
  ext k hk
  rw [BitVec.getElem_extractLsb', BitVec.getElem_twoPow, Nat.zero_add, BitVec.getLsbD_twoPow, ← Bool.decide_and,
    decide_eq_decide]
  omega

/-- The 7-bit injector is the low part of the 8-bit one (R133). -/
theorem inject7_eq_extractLsb'_inject8 (w : Word7) {p : Nibble} (h1 : 1 ≤ p.toNat) :
    inject7 w p.toNat = (inject8 (w.setWidth 8) p).extractLsb' 0 7 := by
  rw [inject8_eq_xor_twoPow, BitVec.extractLsb'_xor, extractLsb'_setWidth_self (by decide),
    extractLsb'_twoPow_eq_onehot7 h1, inject7]

/-- Settles O28: a block and its injection differ in a mask of one bit, bit p-1, and the mask cancels itself; its low
part is the mask of the 7-bit use. -/
theorem injectorFlipsOneBit : Obligations.InjectorFlipsOneBit := by
  refine ⟨fun b p _ h8 => ?block, fun w p h1 _ => ⟨rfl, inject7_eq_extractLsb'_inject8 w h1⟩⟩
  have hk : p.toNat - 1 < 8 := by omega
  rw [inject8_xor_self]
  exact ⟨popcount_twoPow hk, by simp [hk], inject8_inject8 b p⟩

end Sys2Proof.Proofs

/-!
Proofs of the statements about the corrector (44_corrector.md): O37, O29. The corrector XORs in the mask of the syndrome,
so its word is a codeword (`syndrome7_correct7`) and differs from the input in that mask; RESULT of CORRECT is two fields,
read through `getLsbD_highField_add_lowField`.
-/

namespace Sys2Proof.Proofs

open Sys2Proof.Machine Sys2Proof.Safety Sys2Proof.Claim

/-! ## The corrector function (R140, R141) -/

theorem locate_zero : locate 0#3 = 0#7 := rfl

/-- The mask of a syndrome that is not 0 is one bit. -/
theorem locate_of_ne_zero {e : Syndrome} (he : e ≠ 0#3) : locate e = BitVec.twoPow 7 (e.toNat - 1) := by
  have hne : e.toNat ≠ 0 := BitVec.toNat_ne_iff_ne (y := 0#3).mpr he
  rw [locate, onehot7, if_neg hne, BitVec.twoPow_eq]

theorem popcount_locate_of_ne_zero {e : Syndrome} (he : e ≠ 0#3) : popcount (locate e) = 1 := by
  rw [locate_of_ne_zero he]
  exact popcount_twoPow (by omega)

theorem correct7_of_syndrome_zero {w : Word7} (h : syndrome7 w = 0#3) : correct7 w = w := by
  rw [correct7, h, locate_zero, BitVec.xor_zero]

theorem correct7_of_syndrome_ne_zero {w : Word7} (h : syndrome7 w ≠ 0#3) :
    correct7 w = w ^^^ (1#7 <<< ((syndrome7 w).toNat - 1)) := by
  rw [correct7, locate_of_ne_zero h, BitVec.twoPow_eq]

/-- A word and the corrector's word differ in the mask of the syndrome. -/
theorem correct7_xor_self (w : Word7) : correct7 w ^^^ w = locate (syndrome7 w) := by
  rw [correct7, BitVec.xor_comm, ← BitVec.xor_assoc, BitVec.xor_self, BitVec.zero_xor]

/-- After an injection at p the corrector flips position `syndrome7 w ^^^ p`, where the syndrome has moved. -/
theorem correct7_inject7 (w : Word7) (p : Syndrome) :
    correct7 (inject7 w p.toNat) = w ^^^ locate p ^^^ locate (syndrome7 w ^^^ p) := by
  rw [← syndrome7_xor_locate]
  rfl

/-- The round trip restores exactly the codewords: what the corrector gives is a codeword, and on a codeword both flips
are at p. -/
theorem correct7_inject7_eq_self_iff (w : Word7) (p : Syndrome) :
    correct7 (inject7 w p.toNat) = w ↔ syndrome7 w = 0#3 := by
  constructor
  · intro h
    rw [← h, syndrome7_correct7]
  · intro h
    rw [correct7_inject7, h, BitVec.zero_xor, BitVec.xor_assoc, BitVec.xor_self, BitVec.xor_zero]

/-- Settles O29: (d) and (e) are `correct7_inject7` and its corollary, which hold for p = 0 as well. -/
theorem correctorLaws : Obligations.CorrectorLaws := by
  refine ⟨syndrome7_correct7, fun _ => correct7_of_syndrome_zero, fun x => ?distance,
    fun c p hc _ => (correct7_inject7_eq_self_iff c p).mpr hc,
    fun w p _ => ⟨correct7_inject7 w p, correct7_inject7_eq_self_iff w p⟩⟩
  case distance =>
    rw [correct7_xor_self]
    exact popcount_locate_le_one _

/-! ## CORRECT (R142) -/

/-- RESULT[6:0] is the word, RESULT[7] = 0, RESULT[10:8] is the syndrome and RESULT[15:11] = 0. -/
theorem fields_highField_add_lowField (e : Syndrome) (w : Word7) :
    let v : BitVec 16 := e.setWidth 16 * 256#16 + w.setWidth 16
    v.extractLsb' 0 7 = w ∧ v.getLsbD 7 = false ∧ v.extractLsb' 8 3 = e ∧ v.extractLsb' 11 5 = 0#5 := by
  refine ⟨?word, ?bit7, ?syndrome, ?high⟩
  case word =>
    ext k hk
    have hlow : k < 8 := by omega
    rw [BitVec.getElem_extractLsb', getLsbD_highField_add_lowField, Nat.zero_add, if_pos hlow, BitVec.getLsbD_eq_getElem]
  case bit7 => exact getLsbD_correctResult_of_mask e w (by decide)
  case syndrome =>
    ext k hk
    have hhigh : ¬ 8 + k < 8 := by omega
    rw [BitVec.getElem_extractLsb', getLsbD_highField_add_lowField, if_neg hhigh, Nat.add_sub_cancel_left,
      BitVec.getLsbD_eq_getElem]
  case high =>
    ext k hk
    have hhigh : ¬ 11 + k < 8 := by omega
    rw [BitVec.getElem_extractLsb', getLsbD_highField_add_lowField, if_neg hhigh, BitVec.getElem_zero]
    exact BitVec.getLsbD_of_ge e _ (by omega)

theorem exec_correct (w : Word7) (s : State) :
    exec (.correct w) s = .next (completedWith ((syndrome7 w).setWidth 16 * 256#16 + (correct7 w).setWidth 16) s) := rfl

theorem execute_correct_word (w : Word7) (s : State) : execute (word (0#1 ++ w) 0#4 0x4#4) s = exec (.correct w) s := by
  rw [← setWidth_word7]
  exact execute_of_decode (decodeOfEncodeIsTheCommand (.correct w)) s

/-- A codeword comes back as the whole RESULT. -/
theorem correctResult_of_codeword {w : Word7} (hw : Codeword w) :
    (syndrome7 w).setWidth 16 * 256#16 + (correct7 w).setWidth 16 = w.setWidth 16 := by
  have hzero : syndrome7 w = 0#3 := hw
  rw [correct7_of_syndrome_zero hzero, hzero, BitVec.setWidth_zero, BitVec.zero_mul, BitVec.zero_add]

/-- Settles O37: the fields of RESULT are those of `fields_highField_add_lowField`, the word's that of the corrector; the
worked example is W = 0x01. -/
theorem correctCommand : Obligations.CorrectCommand := by
  refine ⟨fun w s => ⟨_, exec_correct w s, rfl, ?_⟩, execute_correct_word,
    execute_word7_row_of_reserved (.inr (.inr rfl)),
    fun s => (execute_correct_word 0x01#7 s).trans (exec_correct 0x01#7 s)⟩
  obtain ⟨hword, hbit7, hsyndrome, hhigh⟩ := fields_highField_add_lowField (syndrome7 w) (correct7 w)
  refine ⟨?flip, hbit7, hsyndrome, hhigh, correctResult_of_codeword, fun hw => ?oneFlip⟩
  case flip =>
    rw [hword]
    split
    next h0 => exact correct7_of_syndrome_zero h0
    next h0 => exact correct7_of_syndrome_ne_zero h0
  case oneFlip =>
    rw [hword, correct7_xor_self]
    exact popcount_locate_of_ne_zero hw

end Sys2Proof.Proofs

/-!
Proofs of the statements about the block processor (45_block_processor.md): O39, O30. An injection at p = 8 leaves the
7-bit word as it is, so for every legal p it XORs the mask of the 3-bit position p mod 8 into the word, and the corrector
XORs in the mask of the syndrome, moved by the same position. The laws of R151 are read off the XOR of these two masks
(`corrected8_xor_self`).
-/

namespace Sys2Proof.Proofs

open Sys2Proof.Machine Sys2Proof.Safety Sys2Proof.Claim

/-! ## The two parts of the corrected block (R150) -/

/-- Bits 6:0 of the corrected block are the corrector's word. -/
theorem extractLsb'_corrected8 (b : Block) (p : Nibble) :
    (corrected8 b p).extractLsb' 0 7 = correct7 ((received8 b p).extractLsb' 0 7) :=
  BitVec.extractLsb'_append_eq_right

/-- Bit 7 of the corrected block is that of the 8th-bit rule. -/
theorem getLsbD_seven_corrected8 (b : Block) (p : Nibble) : (corrected8 b p).getLsbD 7 = correctedBit8 b p := by
  rw [corrected8, BitVec.getLsbD_append, if_neg (lt_irrefl 7), Nat.sub_self, BitVec.getLsbD_ofBool, decide_eq_true rfl,
    Bool.true_and]

/-! ## PROCESS (R152) -/

/-- PROCESS completes with the two blocks when its position is 1 to 8. -/
theorem exec_process_of_legal {b : Block} {p : Nibble} (h : legalPos p = true) (s : State) :
    exec (.process b p) s =
      .next (completedWith ((corrected8 b p).setWidth 16 * 256#16 + (received8 b p).setWidth 16) s) :=
  if_pos h

/-- PROCESS raises InvalidErrorPosition when its position is 0 or 9 to 15. -/
theorem exec_process_of_illegal {b : Block} {p : Nibble} (h : legalPos p = false) (s : State) :
    exec (.process b p) s = .next (faulted 3#4 0#4 s) :=
  if_neg (Bool.eq_false_iff.mp h)

/-- Every word of OPC 6 is a PROCESS: D and P are its operands, with no reserved bit (30_encoding.md R75). -/
theorem execute_process_word (b : Block) (p : Nibble) (s : State) :
    execute (word b p 0x6#4) s = exec (.process b p) s :=
  execute_of_decode (decode_word b p 0x6#4) s

/-- Settles O39: the outcomes are those of `legalPos`, and the two parts of the corrected block are those of R150; the
worked example is B = 0xAA with p = 8. -/
theorem processCommand : Obligations.ProcessCommand :=
  ⟨fun b p s h1 h8 => ⟨received8 b p, corrected8 b p, exec_process_of_legal ((legalPos_iff p).mpr ⟨h1, h8⟩) s, rfl,
      extractLsb'_corrected8 b p, getLsbD_seven_corrected8 b p⟩,
    fun _ p s h => exec_process_of_illegal ((legalPos_eq_false p).mpr h) s, execute_process_word,
    fun s => (execute_process_word 0xAA#8 8#4 s).trans (exec_process_of_legal (by decide) s)⟩

/-! ## The corrected block against the original (R150, R151) -/

/-- The 8th bit comes back: it is flipped at p = 8 alone, where the rule undoes the flip. -/
theorem correctedBit8_eq {p : Nibble} (b : Block) (h8 : p.toNat ≤ 8) : correctedBit8 b p = b.getLsbD 7 := by
  have hreceived : (received8 b p).getLsbD 7 = (b.getLsbD 7 ^^ decide (p.toNat - 1 = 7)) := by
    rw [received8, inject8_eq_xor_twoPow, BitVec.getLsbD_xor, BitVec.getLsbD_twoPow,
      decide_eq_true (by omega : p.toNat - 1 < 8), Bool.true_and]
  rw [correctedBit8, hreceived]
  split
  next hp => simp [hp]
  next hp =>
    have hne : p.toNat ≠ 8 := BitVec.toNat_ne_iff_ne (y := 8#4).mpr hp
    have hlow : p.toNat - 1 ≠ 7 := by omega
    simp [hlow]

/-- On the 7-bit word a position 1 to 8 acts as the 3-bit position p mod 8: position 8 is outside the word. -/
theorem onehot7_eq_locate : ∀ p : Nibble, p.toNat ≤ 8 → onehot7 p.toNat = locate (p.setWidth 3) := by decide

/-- The received word is the 7-bit injection at p mod 8. -/
theorem extractLsb'_received8 {p : Nibble} (b : Block) (h1 : 1 ≤ p.toNat) (h8 : p.toNat ≤ 8) :
    (received8 b p).extractLsb' 0 7 = inject7 (b.extractLsb' 0 7) (p.setWidth 3).toNat := by
  rw [received8, inject8_eq_xor_twoPow, BitVec.extractLsb'_xor, extractLsb'_twoPow_eq_onehot7 h1,
    onehot7_eq_locate p h8]
  rfl

/-- What injection at position q and correction do to a word of syndrome e, as a mask on the block: the flip at q, and
the flip at e ^ q, where the syndrome has moved. -/
def roundTripMask (e q : Syndrome) : Block := 0#1 ++ (locate q ^^^ locate (e ^^^ q))

/-- A block is its 8th bit above its 7-bit word. -/
theorem ofBool_append_extractLsb' (b : Block) : BitVec.ofBool (b.getLsbD 7) ++ b.extractLsb' 0 7 = b := by
  ext k hk
  rw [BitVec.getElem_append]
  split
  next hlow => rw [BitVec.getElem_extractLsb', Nat.zero_add, BitVec.getLsbD_eq_getElem]
  next hhigh =>
    obtain rfl : k = 7 := by omega
    simp

/-- The corrected block differs from the original in the mask of the two flips. -/
theorem corrected8_xor_self {p : Nibble} (b : Block) (h1 : 1 ≤ p.toNat) (h8 : p.toNat ≤ 8) :
    corrected8 b p ^^^ b = roundTripMask (syndrome7 (b.extractLsb' 0 7)) (p.setWidth 3) := by
  generalize hw : b.extractLsb' 0 7 = w
  generalize hq : p.setWidth 3 = q
  calc corrected8 b p ^^^ b
      = (BitVec.ofBool (b.getLsbD 7) ++ correct7 (inject7 w q.toNat)) ^^^ (BitVec.ofBool (b.getLsbD 7) ++ w) := by
        rw [corrected8, correctedBit8_eq b h8, extractLsb'_received8 b h1 h8, hw, hq, ← hw, ofBool_append_extractLsb']
    _ = 0#1 ++ (correct7 (inject7 w q.toNat) ^^^ w) := by
        rw [BitVec.xor_append, BitVec.xor_self]
    _ = roundTripMask (syndrome7 w) q := by
        rw [correct7_inject7, BitVec.xor_assoc w, BitVec.xor_comm w, BitVec.xor_assoc, BitVec.xor_self, BitVec.xor_zero,
          roundTripMask]

/-! ## The mask of the two flips, case by case (R151 (b) to (d)) -/

/-- On a codeword the corrector flips the injected bit back. -/
theorem roundTripMask_zero (q : Syndrome) : roundTripMask 0#3 q = 0#8 := by
  rw [roundTripMask, BitVec.zero_xor, BitVec.xor_self]
  rfl

/-- The mask of one flip on the block. -/
theorem zero_append_locate : ∀ {e : Syndrome}, e ≠ 0#3 → 0#1 ++ locate e = 1#8 <<< (e.toNat - 1) := by decide

/-- With no flip injected in the word, the corrector's flip alone. -/
theorem roundTripMask_position_zero {e : Syndrome} (he : e ≠ 0#3) : roundTripMask e 0#3 = 1#8 <<< (e.toNat - 1) := by
  rw [roundTripMask, BitVec.xor_zero, locate_zero, BitVec.zero_xor, zero_append_locate he]

/-- An injection at the syndrome leaves the corrector a codeword: the injected flip alone. -/
theorem roundTripMask_self {e : Syndrome} (he : e ≠ 0#3) : roundTripMask e e = 1#8 <<< (e.toNat - 1) := by
  rw [roundTripMask, BitVec.xor_self, locate_zero, BitVec.xor_zero, zero_append_locate he]

/-- Otherwise both flips, at different positions. -/
theorem roundTripMask_of_ne : ∀ {e q : Syndrome}, e ≠ 0#3 → q ≠ 0#3 → q ≠ e →
    roundTripMask e q = 1#8 <<< (q.toNat - 1) ||| 1#8 <<< ((e ^^^ q).toNat - 1) ∧
      popcount (~~~roundTripMask e q) = 6 := by
  decide

/-- Two flips leave at least 6 of the 8 bits. -/
theorem six_le_popcount_not_roundTripMask : ∀ e q : Syndrome, 6 ≤ popcount (~~~roundTripMask e q) := by decide

/-- A position 1 to 7 is its own 3-bit position. -/
theorem toNat_setWidth_position {p : Nibble} (h8 : p.toNat ≤ 8) (hp : p ≠ 8#4) : (p.setWidth 3).toNat = p.toNat := by
  have hne : p.toNat ≠ 8 := BitVec.toNat_ne_iff_ne (y := 8#4).mpr hp
  rw [BitVec.toNat_setWidth]
  omega

/-- Settles O30: (a) is `correctedBit8_eq`; (b) and (c) are the cases of the mask in which the corrected block differs
(`corrected8_xor_self`), whose zeros are the count of (d); bits 6:0 are a corrector's word, so a codeword, and a block
that holds none is not restored. -/
theorem blockProcessorLaws : Obligations.BlockProcessorLaws := by
  intro b p h1 h8 w c
  have hxor : c ^^^ b = roundTripMask (syndrome7 w) (p.setWidth 3) := corrected8_xor_self b h1 h8
  have hcodeword : syndrome7 (c.extractLsb' 0 7) = 0#3 := by rw [extractLsb'_corrected8, syndrome7_correct7]
  have hagree : agreeing c b = popcount (~~~roundTripMask (syndrome7 w) (p.setWidth 3)) := by
    rw [← hxor, popcount_not_xor, agreeing]
  refine ⟨(getLsbD_seven_corrected8 b p).trans (correctedBit8_eq b h8), fun he => ?restored, fun he =>
    ⟨fun hcb => he (by rwa [hcb] at hcodeword), fun hp => ?position8, fun hp hpe => ?position_syndrome,
      fun hp hpe => ?two_flips⟩, hagree ▸ six_le_popcount_not_roundTripMask _ _, hcodeword⟩
  case restored =>
    rw [he, roundTripMask_zero] at hxor
    exact BitVec.xor_eq_zero_iff.mp hxor
  case position8 =>
    rw [hxor, hp]
    exact roundTripMask_position_zero he
  case position_syndrome =>
    have hq : p.setWidth 3 = syndrome7 w := BitVec.eq_of_toNat_eq ((toNat_setWidth_position h8 hp).trans hpe)
    rw [hxor, hq, hpe]
    exact roundTripMask_self he
  case two_flips =>
    have hq := toNat_setWidth_position h8 hp
    have hq0 : p.setWidth 3 ≠ 0#3 := BitVec.toNat_ne_iff_ne.mp (by rw [hq]; exact Nat.one_le_iff_ne_zero.mp h1)
    have hqe : p.setWidth 3 ≠ syndrome7 w := BitVec.toNat_ne_iff_ne.mp (by rw [hq]; exact hpe)
    obtain ⟨hflips, hsix⟩ := roundTripMask_of_ne he hq0 hqe
    rw [← hq]
    exact ⟨hxor.trans hflips, hagree.trans hsix⟩

end Sys2Proof.Proofs

/-!
Proofs of the statements about the aggregator and RUN (46_aggregator_run.md): O31, O32, O41, O55, O56, O57. MATCH is the
sum of the agreeing bits of the blocks, so the laws of the block processor bound it. A completed RUN is read through
`completedRun_of_exec` and `banksHold_of_exec_run`: it stored the results of inputs that no command writes.
-/

namespace Sys2Proof.Proofs

open Sys2Proof.Machine Sys2Proof.Safety Sys2Proof.Claim

/-! ## The aggregator's comparison and count (R160, R161) -/

theorem aggregateEq_iff {o c : BitVec 128} : aggregateEq o c = true ↔ o = c := decide_eq_true_iff

/-- All n bits agree only in equal strings. -/
theorem popcount_not_xor_eq_iff {n : Nat} {o c : BitVec n} : popcount (~~~(o ^^^ c)) = n ↔ o = c := by
  have hcount := List.countP_eq_length (p := fun k => o.getLsbD k == c.getLsbD k) (l := List.range n)
  simp only [List.length_range, List.mem_range, beq_iff_eq] at hcount
  rw [popcount_not_xor, hcount]
  exact ⟨BitVec.eq_of_getLsbD_eq, fun h _ _ => h ▸ rfl⟩

theorem aggregateMatch_eq_iff {o c : BitVec 128} : aggregateMatch o c = 128 ↔ o = c := popcount_not_xor_eq_iff

theorem aggregateMatch_le (o c : BitVec 128) : aggregateMatch o c ≤ 128 := by
  rw [aggregateMatch, popcount_not_xor]
  exact List.countP_le_length.trans_eq List.length_range

/-- Settles O31: the concatenations are read by `getLsbD_concatBlocks`, the count by `popcount_not_xor`. -/
theorem aggregatorConcatenatesAndCounts : Obligations.AggregatorConcatenatesAndCounts := by
  refine ⟨fun res i k hk => ⟨getLsbD_concatBlocks _ i hk, getLsbD_concatBlocks _ i hk⟩, fun o c =>
    ⟨?equal, popcount_not_xor o c, aggregateMatch_le o c⟩⟩
  rw [aggregateEq_iff]
  exact ⟨fun h _ _ => h ▸ rfl, BitVec.eq_of_getLsbD_eq⟩

/-- MATCH counts the agreeing bits block by block. -/
theorem aggregateMatch_eq_sum_agreeing (o c : BitVec 128) :
    aggregateMatch o c = ((List.range 16).map fun i => agreeing (split c i) (split o i)).sum := by
  rw [aggregateMatch, popcount_not_xor, countP_range_blocks _ 16]
  congr 1
  refine List.map_congr_left fun i _ => List.countP_congr fun k hk => ?_
  rw [getLsbD_split, getLsbD_split, decide_eq_true (List.mem_range.mp hk), Bool.true_and, Bool.true_and, Bool.beq_comm]

/-! ## AGG_STAT (10_state.md R35) -/

/-- A count that fits in 8 bits leaves EQ its own bit. -/
theorem toNat_aggStatWord (eq : Bool) {m : Nat} (hm : m < 2 ^ 8) : (aggStatWord eq m).toNat = 2 ^ 8 * eq.toNat + m := by
  have := eq.toNat_le
  simp only [aggStatWord, BitVec.toNat_add, BitVec.toNat_mul, BitVec.toNat_setWidth, BitVec.toNat_ofBool,
    BitVec.toNat_ofNat]
  omega

/-- MATCH is bits 7:0, EQ is bit 8, and bits 15:9 are 0. -/
theorem fields_aggStatWord (eq : Bool) {m : Nat} (hm : m < 2 ^ 8) :
    ((aggStatWord eq m).extractLsb' 0 8).toNat = m ∧ (aggStatWord eq m).getLsbD 8 = eq ∧
      ∀ k, 9 ≤ k → (aggStatWord eq m).getLsbD k = false := by
  have hbit : ∀ k, 8 ≤ k → (aggStatWord eq m).getLsbD k = eq.toNat.testBit (k - 8) := fun k hk => by
    rw [BitVec.getLsbD, toNat_aggStatWord eq hm, Nat.testBit_two_pow_mul_add _ hm, if_neg (by omega)]
  refine ⟨?matchField, ?eqBit, fun k hk => ?high⟩
  case matchField =>
    rw [BitVec.extractLsb'_toNat, toNat_aggStatWord eq hm, Nat.shiftRight_zero, Nat.mul_add_mod, Nat.mod_eq_of_lt hm]
  case eqBit =>
    rw [hbit 8 le_rfl]
    cases eq <;> rfl
  case high =>
    rw [hbit k (by omega)]
    have hpow : 2 ^ 1 ≤ 2 ^ (k - 8) := Nat.pow_le_pow_right two_pos (by omega)
    exact Nat.testBit_lt_two_pow (eq.toNat_lt.trans_le hpow)

/-! ## The results of process8 (R161) -/

/-- The corrected block is the original exactly when the original holds a codeword. -/
theorem corrected8_eq_self_iff {b : Block} {p : Nibble} (h1 : 1 ≤ p.toNat) (h8 : p.toNat ≤ 8) :
    corrected8 b p = b ↔ Codeword (b.extractLsb' 0 7) := by
  obtain ⟨-, hrestored, hother, -⟩ := blockProcessorLaws b p h1 h8
  exact ⟨fun h => by_contra fun hw => (hother hw).1 h, hrestored⟩

theorem split_aggregateCorr_lane (x : Payload) (q : PosVec) (i : BlockIndex) :
    split (aggregateCorr (lane x q)) i = corrected8 (split x i) (posField q i) :=
  extractLsb'_aggregateCorr_lane x q i

/-- A string is known by its 16 blocks. -/
theorem eq_iff_split_eq {x y : Payload} : x = y ↔ ∀ i : BlockIndex, split x i = split y i := by
  refine ⟨fun h _ => h ▸ rfl, fun h => eq_of_blocks_eq fun i k hk => ?_⟩
  have hbit : (split x i).getLsbD k = (split y i).getLsbD k := by rw [h i]
  rwa [getLsbD_split, getLsbD_split, decide_eq_true hk, Bool.true_and, Bool.true_and] at hbit

/-- The corrected string is the payload exactly when every block holds a codeword. -/
theorem eq_aggregateCorr_lane_iff {x : Payload} {q : PosVec} (hq : PositionsLegal q) :
    x = aggregateCorr (lane x q) ↔ ∀ i : BlockIndex, Codeword ((split x i).extractLsb' 0 7) := by
  rw [eq_iff_split_eq]
  refine forall_congr' fun i => ?_
  obtain ⟨h1, h8⟩ := hq i
  rw [split_aggregateCorr_lane, eq_comm, corrected8_eq_self_iff h1 h8]

/-- Every block keeps at least 6 of its 8 bits. -/
theorem ninetySix_le_aggregateMatch_lane {x : Payload} {q : PosVec} (hq : PositionsLegal q) :
    96 ≤ aggregateMatch x (aggregateCorr (lane x q)) := by
  have hblock : ∀ n ∈ (List.range 16).map fun i => agreeing (split (aggregateCorr (lane x q)) i) (split x i), 6 ≤ n := by
    simp only [List.forall_mem_map, List.mem_range]
    intro i hi
    obtain ⟨h1, h8⟩ := hq ⟨i, hi⟩
    obtain ⟨-, -, -, hsix, -⟩ := blockProcessorLaws (split x i) (posField q i) h1 h8
    exact split_aggregateCorr_lane x q ⟨i, hi⟩ ▸ hsix
  rw [aggregateMatch_eq_sum_agreeing]
  simpa using List.card_nsmul_le_sum _ 6 hblock

/-- Settles O32: MATCH is at most 128, so the fields of AGG_STAT do not overlap; the bounds on MATCH are the laws of the
block processor, block by block. -/
theorem matchCountArithmetic : Obligations.MatchCountArithmetic := by
  refine ⟨fun o c => ?word, fun x q hq => ?lanes⟩
  case word =>
    have hm : aggregateMatch o c < 2 ^ 8 := (aggregateMatch_le o c).trans_lt (by decide)
    obtain ⟨hmatch, heq, hhigh⟩ := fields_aggStatWord (aggregateEq o c) hm
    exact ⟨hmatch, heq, hhigh, aggregateEq_iff.trans aggregateMatch_eq_iff.symm⟩
  case lanes =>
    rw [aggregateOrig_lane, aggregateMatch_eq_iff]
    exact ⟨ninetySix_le_aggregateMatch_lane hq, eq_aggregateCorr_lane_iff hq⟩

/-! ## RUN (R165) -/

theorem exec_run_of_no_payload {s : State} (h : payloadOperand s = none) :
    exec .run s = .next (runFaulted 1#4 0#4 s) := by
  simp only [exec, execRun, h]
  rfl

theorem exec_run_of_no_positions {s : State} {x : Payload} (hx : payloadOperand s = some x)
    (hq : posvecOperand s = none) : exec .run s = .next (runFaulted 4#4 0#4 s) := by
  simp only [exec, execRun, hx, hq]
  rfl

theorem exec_run_of_illegal_position {s : State} {x : Payload} {q : PosVec} {i : BlockIndex}
    (hx : payloadOperand s = some x) (hq : posvecOperand s = some q) (hi : firstIllegalPos q = some i) :
    exec .run s = .next (runFaulted 3#4 (BitVec.ofNat 4 i.val) s) := by
  simp only [exec, execRun, hx, hq, hi]
  rfl

theorem exec_run_of_legal {s : State} {x : Payload} {q : PosVec} (hx : payloadOperand s = some x)
    (hv : posvecOperand s = some q) (hq : PositionsLegal q) : exec .run s = .next (complete (storeRun x q s)) := by
  simp only [exec, execRun, hx, hv, firstIllegalPos_eq_none.mpr hq]

theorem execute_runWord (s : State) : execute runWord s = exec .run s :=
  execute_of_decode (decodeOfEncodeIsTheCommand .run) s

/-- A payload of codewords comes back whole, with EQ = 1 and MATCH = 128 (R161). -/
theorem aggregates_of_codewords {x : Payload} {q : PosVec} (hq : PositionsLegal q)
    (hx : ∀ i : BlockIndex, Codeword ((split x i).extractLsb' 0 7)) (s : State) :
    (storeRun x q s).aggCorr = some x ∧ (storeRun x q s).aggStat = some 0x0180#16 := by
  have hcorr : aggregateCorr (lane x q) = x := ((eq_aggregateCorr_lane_iff hq).mpr hx).symm
  have heq : aggregateEq x x = true := aggregateEq_iff.mpr rfl
  have hmatch : aggregateMatch x x = 128 := aggregateMatch_eq_iff.mpr rfl
  rw [storeRun_aggCorr, storeRun_aggStat, aggregateOrig_lane, hcorr, heq, hmatch]
  exact ⟨rfl, rfl⟩

/-- Settles O41: the outcomes are those of the two operands and of the lowest illegal position; the completed RUN is
`storeRun`, whose banks are `banksHold_storeRun`; scenario 1 is a payload of codewords. -/
theorem runCommand : Obligations.RunCommand := by
  refine ⟨fun s hv => exec_run_of_no_payload (payloadOperand_eq_none.mpr (.inl hv)), fun x s hv hx hp =>
    exec_run_of_no_positions (payloadOperand_eq_some.mpr ⟨hv, hx⟩) (posvecOperand_eq_none.mpr (.inl hp)),
    fun x q i s hv hx hp hq hi hlow => ?illegal, fun x q s hv hx hp hq hlegal => ?completes, execute_runWord,
    fun d p s h => ?reserved, fun s hv hx hp hq => ?scenario1⟩
  case illegal =>
    have hfirst : firstIllegalPos q = some i :=
      firstIllegalPos_eq_some.mpr ⟨(legalPos_eq_false _).mpr hi, fun j hj => (legalPos_iff _).mpr (hlow j hj)⟩
    exact exec_run_of_illegal_position (payloadOperand_eq_some.mpr ⟨hv, hx⟩) (posvecOperand_eq_some.mpr ⟨hp, hq⟩) hfirst
  case completes =>
    exact ⟨_, exec_run_of_legal (payloadOperand_eq_some.mpr ⟨hv, hx⟩) (posvecOperand_eq_some.mpr ⟨hp, hq⟩) hlegal,
      banksHold_storeRun x q s, rfl, rfl, rfl, rfl, rfl, hx, hq, rfl, hv, hp, rfl, rfl, rfl, rfl⟩
  case reserved =>
    have hmask : ¬ (d = 0#8 ∧ p = 0#4) := fun ⟨hd, hp⟩ => h.elim (· hp) (· hd)
    have hreject : decode (word d p 0x8#4) = .error .reservedFieldBit := (decode_word d p 0x8#4).trans (if_neg hmask)
    exact execute_of_reject hreject s
  case scenario1 =>
    have hlegal : PositionsLegal 0x8765432187654321#64 := by
      unfold PositionsLegal
      decide
    have hcodewords : ∀ i : BlockIndex, Codeword ((split 0#128 i).extractLsb' 0 7) := by
      unfold Codeword
      decide
    exact ⟨_, (execute_runWord s).trans
      (exec_run_of_legal (payloadOperand_eq_some.mpr ⟨hv, hx⟩) (posvecOperand_eq_some.mpr ⟨hp, hq⟩) hlegal),
      aggregates_of_codewords hlegal hcodewords s⟩

/-! ## A RUN that completes, seen from its result -/

/-- A RUN that completes read both inputs, found all positions legal, and stored their results. -/
theorem completedRun_of_exec {s t : State} (h : exec .run s = .next t) (hok : t.lastOk = true) :
    ∃ x q, payloadOperand s = some x ∧ posvecOperand s = some q ∧ PositionsLegal q ∧
      t = complete (storeRun x q s) := by
  cases commandEffect_of_exec h with
  | runStored _ x q hx hv hq => exact ⟨x, q, hx, hv, hq, rfl⟩
  | runFault => cases hok
  | result hi | unitFault hi | nop hi | clrerr hi => cases hi

/-! ## Two RUNs with no host write between them (R166) -/

theorem sameHostSide_trans {s t u : State} (h : sameHostSide s t) (h' : sameHostSide t u) : sameHostSide s u := by
  obtain ⟨hx, hq, hxv, hqv, hp, hr, he⟩ := h
  obtain ⟨hx', hq', hxv', hqv', hp', hr', he'⟩ := h'
  exact ⟨hx'.trans hx, hq'.trans hq, hxv'.trans hxv, hqv'.trans hqv, hp'.trans hp, hr'.trans hr, he'.trans he⟩

theorem runCommands_cons {w : CmdWord} {ws : List CmdWord} {s u : State} (h : runCommands (w :: ws) s = some u) :
    ∃ t, execute w s = .next t ∧ runCommands ws t = some u := by
  obtain ⟨t, ht⟩ := everyCommandWordIsOneStep w s
  rw [runCommands, ht] at h
  exact ⟨t, ht, h⟩

/-- R62 along any list of words: none of them writes the host's side. -/
theorem sameHostSide_of_runCommands {ws : List CmdWord} {s u : State} (h : runCommands ws s = some u) :
    sameHostSide s u := by
  induction ws generalizing s with
  | nil => exact Option.some.inj h ▸ sameHostSide_refl s
  | cons w ws ih =>
    obtain ⟨t, ht, hrest⟩ := runCommands_cons h
    exact sameHostSide_trans (commandsNeverWriteTheInputs w s t ht) (ih hrest)

/-- RUN reads nothing but the host's side. -/
theorem operands_eq_of_sameHostSide {s u : State} (h : sameHostSide s u) :
    payloadOperand u = payloadOperand s ∧ posvecOperand u = posvecOperand s := by
  obtain ⟨hx, hq, hxv, hqv, -⟩ := h
  rw [payloadOperand, posvecOperand, hx, hq, hxv, hqv]
  exact ⟨rfl, rfl⟩

/-- Settles O55: the words between the RUNs leave the inputs, by induction over them, so the second RUN stores the same
results over whatever state it finds. -/
theorem runsWithNoHostWriteBetweenAgree : Obligations.RunsWithNoHostWriteBetweenAgree := by
  intro ws s t u v ht hu hv hok
  have hside : sameHostSide s u :=
    sameHostSide_trans (commandsNeverWriteTheInputs _ s t ht) (sameHostSide_of_runCommands hu)
  obtain ⟨x, q, hx, hq, hlegal, rfl⟩ := completedRun_of_exec ((execute_runWord s).symm.trans ht) hok
  obtain ⟨hxu, hqu⟩ := operands_eq_of_sameHostSide hside
  have hsecond : execute runWord u = .next (complete (storeRun x q u)) :=
    (execute_runWord u).trans (exec_run_of_legal (hxu.trans hx) (hqu.trans hq) hlegal)
  obtain rfl := Host.Outcome.next.inj (hsecond.symm.trans hv)
  obtain ⟨hpayload, hposvec, -⟩ := hside
  exact ⟨⟨rfl, rfl, rfl, rfl, rfl, rfl, rfl⟩, rfl, rfl, hpayload, hposvec⟩

/-! ## Lane by lane (R162, R101, R152) -/

/-- A RUN that completes leaves the results of its inputs in the banks, and PAYLOAD as it read it. -/
theorem banksHold_of_exec_run {s t : State} {q : PosVec} (hq : s.posvec = some q) (h : exec .run s = .next t)
    (hok : t.lastOk = true) :
    ∃ x, payloadOperand s = some x ∧ payloadOperand t = some x ∧ PositionsLegal q ∧ BanksHold x q t := by
  obtain ⟨x, q', hx, hq', hlegal, rfl⟩ := completedRun_of_exec h hok
  obtain rfl := Option.some.inj (hq.symm.trans (posvecOperand_eq_some.mp hq').2)
  exact ⟨x, hx, hx, hlegal, banksHold_storeRun x q s⟩

/-- Settles O56: entry i of what BanksHold says of the banks names block i and POS_i alone. -/
theorem lanesAreIndependent : Obligations.LanesAreIndependent := by
  intro i x x' q q' s s' t t' hx hx' hq hq' hblock hpos ht ht' hok hok'
  obtain ⟨y, hy, -, -, hlanes, -⟩ := banksHold_of_exec_run hq ht hok
  obtain ⟨y', hy', -, -, hlanes', -⟩ := banksHold_of_exec_run hq' ht' hok'
  obtain rfl := Option.some.inj (hx.symm.trans (payloadOperand_eq_some.mp hy).2)
  obtain rfl := Option.some.inj (hx'.symm.trans (payloadOperand_eq_some.mp hy').2)
  obtain ⟨horig, hposn, hrecv, hcorr⟩ := hlanes i
  obtain ⟨horig', hposn', hrecv', hcorr'⟩ := hlanes' i
  rw [sameLane, horig, hposn, hrecv, hcorr, horig', hposn', hrecv', hcorr', hblock, hpos]
  exact ⟨rfl, rfl, rfl, rfl⟩

/-- Settles O57: the RUN leaves PAYLOAD for SPLIT to read, and its positions are legal for PROCESS; both give what
BanksHold says of entry i. -/
theorem runAgreesWithTheUnitCommands : Obligations.RunAgreesWithTheUnitCommands := by
  intro s t q i hq ht hok
  obtain ⟨x, -, hx, hlegal, hlanes, -⟩ := banksHold_of_exec_run hq ht hok
  obtain ⟨horig, hpos, hrecv, hcorr⟩ := hlanes i
  have hidx : (BitVec.ofNat 4 i.val).toNat = i.val := Nat.mod_eq_of_lt i.isLt
  have hsplit := exec_split_of_some (BitVec.ofNat 4 i.val) hx
  rw [hidx] at hsplit
  exact ⟨_, _, _, _, _, _, horig, hpos, hrecv, hcorr, hsplit, rfl, rfl,
    exec_process_of_legal ((legalPos_iff _).mpr (hlegal i)) _, rfl, rfl, rfl⟩

end Sys2Proof.Proofs

/-!
Proofs of the statements about the control commands (47_control.md): O33, O42. A word of either row with a bit of D or P
set is rejected by the row's mask; STATUS after CLRERR is that of the bits that CLRERR leaves.
-/

namespace Sys2Proof.Proofs

open Sys2Proof.Machine Sys2Proof.Safety Sys2Proof.Claim

/-! ## Words of the control rows with any of bits 15:4 set (R180, R181, 60_exceptions.md R213) -/

theorem execute_control_row_of_reserved {opc : BitVec 4} (hopc : opc = 0x0#4 ∨ opc = 0x9#4) (d : BitVec 8)
    (p : BitVec 4) (s : State) (h : p ≠ 0#4 ∨ d ≠ 0#8) : execute (word d p opc) s = .next (faulted 5#4 0#4 s) := by
  have hmask : ¬ (d = 0#8 ∧ p = 0#4) := fun ⟨hd, hp⟩ => h.elim (· hp) (· hd)
  have hreject : decode (word d p opc) = .error .reservedFieldBit := by
    rcases hopc with rfl | rfl <;> exact (decode_word d p _).trans (if_neg hmask)
  exact execute_of_reject hreject s

/-! ## NOP (R180) -/

theorem exec_nop (s : State) : exec .nop s = .next (completed s) := rfl

theorem execute_nop_word (s : State) : execute 0x0000#16 s = .next (completed s) :=
  (execute_of_decode (decodeOfEncodeIsTheCommand .nop) s).trans (exec_nop s)

/-- Settles O33: NOP is completion alone, which leaves FIRST_ERR. -/
theorem nopCommand : Obligations.NopCommand :=
  ⟨exec_nop, execute_nop_word, execute_control_row_of_reserved (.inl rfl),
    fun s _ _ hfirst => ⟨completed s, execute_nop_word s, rfl, rfl, hfirst⟩⟩

/-! ## CLRERR (R181) -/

theorem exec_clrerr (s : State) : exec .clrerr s = .next (completed { s with firstErr := 0#4 }) := rfl

theorem execute_clrerrWord (s : State) : execute clrerrWord s = .next (completed { s with firstErr := 0#4 }) :=
  (execute_of_decode (decodeOfEncodeIsTheCommand .clrerr) s).trans (exec_clrerr s)

/-- Over clear RUN_VALID and valid bits, completion with FIRST_ERR = 0 leaves LAST_OK as the only bit of STATUS. -/
theorem statusWord_completed_of_clear {s : State} (hrun : s.runValid = false) (hpayload : s.payloadV = false)
    (hposvec : s.posvecV = false) : statusWord (completed { s with firstErr := 0#4 }) = 0x00000001#32 := by
  simp only [statusWord, completed, hrun, hpayload, hposvec]
  rfl

/-- Settles O42: CLRERR is completion with FIRST_ERR cleared; in the worked example bits 3:1 of 0x330, by the layout of
STATUS (O14), are the three bits CLRERR leaves. -/
theorem clrerrCommand : Obligations.ClrerrCommand := by
  refine ⟨exec_clrerr, execute_clrerrWord, execute_control_row_of_reserved (.inr rfl), fun s hs => ?workedExample⟩
  case workedExample =>
    obtain ⟨-, hrun, hpayload, hposvec, -⟩ := statusLayout s
    rw [hs] at hrun hpayload hposvec
    exact ⟨_, execute_clrerrWord s, statusWord_completed_of_clear hrun.symm hpayload.symm hposvec.symm⟩

end Sys2Proof.Proofs

/-!
Proofs of the statements about the faults (60_exceptions.md): O5, O46, O53, O47, O52, O54, O19. The illegal words are
exactly those the decoder rejects; a faulting word leaves one of the two states of O46, and from it and from the fields
of a completion (O47) follows who can clear FIRST_ERR or set RUN_VALID again.
-/

namespace Sys2Proof.Proofs

open Sys2Proof.Machine Sys2Proof.Safety Sys2Proof.Claim

/-! ## Illegal words (R213, 30_encoding.md R76) -/

/-- A word that no row accepts has a reserved opcode or fails the mask of its row. -/
theorem illegalWord_of_decode {w : CmdWord} {r : Reject} (h : decode w = .error r) : illegalWord w := by
  by_cases hopc : 10 ≤ w.toNat % 16
  · exact .inl hopc
  · refine .inr ⟨_, maskList_getElem? _ (by omega), fun hbits => ?_⟩
    simp only [decode, toNat_opcField, hopc, if_false, matchOf, hbits, ne_eq, not_true_eq_false] at h
    split at h
    case h_11 =>
      simp only [imp_false] at *
      omega
    all_goals cases h

theorem execute_of_illegalWord {w : CmdWord} (h : illegalWord w) (s : State) :
    execute w s = .next (faulted 5#4 0#4 s) := by
  obtain ⟨r, hr⟩ := decode_of_illegalWord h
  exact execute_of_reject hr s

/-- No command raises IllegalCommand itself. -/
theorem CommandEffect.lastErr_ne_illegalCommand {i : Instr} {s t : State} (he : CommandEffect i s t) :
    t.lastErr ≠ 5#4 := by
  cases he with
  | result | nop | clrerr | runStored => simp
  | unitFault _ code hc =>
    change code.toBits ≠ 5#4
    rcases hc with rfl | rfl <;> decide
  | runFault _ code blk hc =>
    change code.toBits ≠ 5#4
    rcases hc with ⟨rfl | rfl, _⟩ | rfl <;> decide

/-- Settles O5: an illegal word decodes to nothing, and a word that decodes to nothing is illegal. -/
theorem illegalWordsRaiseIllegalCommand : Obligations.IllegalWordsRaiseIllegalCommand := by
  refine ⟨fun w s hw => execute_of_illegalWord hw s, fun w s t hw h => ?_⟩
  rcases execute_cases w s with ⟨i, _, he⟩ | ⟨r, hr, _⟩
  · exact (commandEffect_of_exec (he.symm.trans h)).lastErr_ne_illegalCommand
  · exact absurd (illegalWord_of_decode hr) hw

/-! ## What a fault writes (R202, R203, R205) -/

theorem decode_runWord : decode runWord = .ok .run := decodeOfEncodeIsTheCommand .run

/-- Settles O46: the faults are that of a unit command, that of RUN, whose only word is 0x0008, and that of a word which
decodes to nothing. -/
theorem faultWritesOnlyStatus : Obligations.FaultWritesOnlyStatus := by
  intro w s t h hok
  have ne_runWord : decode w ≠ .ok .run → w ≠ runWord := fun hw e => hw (e ▸ decode_runWord)
  rcases execute_cases w s with ⟨i, hw, he⟩ | ⟨r, hw, he⟩
  · cases commandEffect_of_exec (he.symm.trans h) with
    | result | nop | clrerr | runStored => cases hok
    | unitFault hi code hc =>
      have hne : w ≠ runWord := ne_runWord fun hrun => by
        obtain rfl := Except.ok.inj (hw.symm.trans hrun)
        cases hi
      have hcode : code.toBits = 1#4 ∨ code.toBits = 3#4 ∨ code.toBits = 5#4 := by
        rcases hc with rfl | rfl <;> decide
      exact ⟨code.toBits, 0#4, .inl ⟨hne, hcode, rfl, rfl⟩⟩
    | runFault hi code blk hc =>
      have hcode : code.toBits = 1#4 ∨ code.toBits = 3#4 ∨ code.toBits = 4#4 := by
        rcases hc with ⟨rfl | rfl, _⟩ | rfl <;> decide
      have hblk : code.toBits ≠ 3#4 → blk = 0#4 := fun h3 => by
        rcases hc with ⟨_, hblk⟩ | rfl
        · exact hblk
        · exact absurd rfl h3
      exact ⟨code.toBits, blk, .inr ⟨eq_runWord_of_decode (hi ▸ hw), hcode, hblk, rfl⟩⟩
  · have hne : w ≠ runWord := ne_runWord fun hrun => nomatch hw.symm.trans hrun
    exact ⟨5#4, 0#4, .inl ⟨hne, .inr (.inr rfl), rfl, Host.Outcome.next.inj (h.symm.trans he)⟩⟩

/-- Settles O53: both states of O46 hold the code in LAST_ERR and the sticky FIRST_ERR, and no code is 0. -/
theorem firstErrKeepsTheFirstFault : Obligations.FirstErrKeepsTheFirstFault := by
  intro w s t h hok
  obtain ⟨code, blk, ⟨-, hcode, -, rfl⟩ | ⟨-, hcode, -, rfl⟩⟩ := faultWritesOnlyStatus w s t h hok
  all_goals
    have hne : code ≠ 0#4 := by rcases hcode with rfl | rfl | rfl <;> decide
    exact ⟨fun hkeep => if_neg hkeep, fun hzero => if_pos hzero, hne⟩

/-! ## What a completion writes (R201, 10_state.md R26) -/

section
variable {i : Instr} {s t : State}

theorem CommandEffect.lastOk_iff (he : CommandEffect i s t) : t.lastOk = true ↔ t.lastErr = 0#4 := by
  cases he with
  | result | nop | clrerr | runStored => exact iff_of_true rfl rfl
  | unitFault _ code | runFault _ code => exact iff_of_false nofun (toBits_ne_zero code)

theorem CommandEffect.errBlock_eq_zero (he : CommandEffect i s t) (hok : t.lastOk = true) : t.errBlock = 0#4 := by
  cases he with
  | result | nop | clrerr | runStored => rfl
  | unitFault | runFault => cases hok

theorem CommandEffect.firstErr_eq (he : CommandEffect i s t) (hok : t.lastOk = true) (hi : i ≠ .clrerr) :
    t.firstErr = s.firstErr := by
  cases he with
  | result | nop | runStored => rfl
  | clrerr hclr => exact absurd hclr hi
  | unitFault | runFault => cases hok

end

/-- Settles O47: the valid bits are of the host's side, which no command writes, and RUN_VALID goes with the banks. -/
theorem completionFields : Obligations.CompletionFields := by
  intro i s t h
  have he := commandEffect_of_exec h
  obtain ⟨-, -, hpayloadV, hposvecV, -⟩ := he.keeps_hostSide
  exact ⟨he.lastOk_iff, he.busy_eq_false, fun hok =>
    ⟨he.errBlock_eq_zero hok, hpayloadV, hposvecV, he.firstErr_eq hok, fun hi => (he.keeps_banks hi).2⟩⟩

/-! ## Recovery (R206) -/

/-- Every command rewrites LAST_OK and LAST_ERR and reads neither. -/
theorem exec_of_other_last (ok : Bool) (err : BitVec 4) (i : Instr) (s : State) :
    exec i { s with lastOk := ok, lastErr := err } = exec i s := by
  cases i <;> rfl

theorem execute_of_other_last (ok : Bool) (err : BitVec 4) (w : CmdWord) (s : State) :
    execute w { s with lastOk := ok, lastErr := err } = execute w s := by
  rcases execute_cases w s with ⟨i, hw, he⟩ | ⟨r, hw, he⟩
  · rw [he, execute_of_decode hw, exec_of_other_last]
  · rw [he, execute_of_reject hw]; rfl

/-- A fault leaves a FIRST_ERR that is not 0 (O53), and a completion of anything but CLRERR leaves it as it was. -/
theorem eq_clrerrWord_of_firstErr_cleared {w : CmdWord} {s t : State} (h : execute w s = .next t)
    (hs : s.firstErr ≠ 0#4) (ht : t.firstErr = 0#4) : w = clrerrWord := by
  have hchanged : t.firstErr ≠ s.firstErr := fun e => hs (e.symm.trans ht)
  cases hok : t.lastOk with
  | false => exact absurd ((firstErrKeepsTheFirstFault w s t h hok).1 hs) hchanged
  | true =>
    cases wordEffect_of_execute h with
    | illegal hill => rw [hill] at hok; cases hok
    | legal i hw he =>
      obtain rfl : i = .clrerr := by_contra fun hi => hchanged (he.firstErr_eq hok hi)
      exact (encodeOfDecodeIsTheWord w .clrerr hw).symm

/-- Only RUN writes RUN_VALID, and a RUN that faults clears it (O46). -/
theorem completedRun_of_runValid_set {w : CmdWord} {s t : State} (h : execute w s = .next t)
    (hs : s.runValid = false) (ht : t.runValid = true) : w = runWord ∧ t.lastOk = true := by
  have hrun : w = runWord := by_contra fun hw =>
    absurd (((wordEffect_of_execute h).keeps_banks hw).2.symm.trans ht) (by simp [hs])
  refine ⟨hrun, (Bool.not_eq_false _).mp fun hok => ?_⟩
  obtain ⟨code, blk, ⟨hne, -⟩ | ⟨-, -, -, rfl⟩⟩ := faultWritesOnlyStatus w s t h hok
  · exact hne hrun
  · cases ht

/-- Settles O52: of the step's six forms only the reset and the command change FIRST_ERR, and only the command can set
RUN_VALID. -/
theorem recoveryIsOnlyAsStated : Obligations.RecoveryIsOnlyAsStated := by
  refine ⟨fun s t hstep hs ht => ?firstErr, fun w ok err s t u h hu => ?last, fun s t hstep hs ht => ?runValid⟩
  case firstErr =>
    cases stepEffect_of_step hstep with
    | wait | read | writePayload | writePosvec => exact absurd ht hs
    | reset rest hp => exact .inl (by rw [hp]; rfl)
    | command rest w _ hp _ he =>
      obtain rfl := eq_clrerrWord_of_firstErr_cleared he hs ht
      exact .inr (by rw [hp]; rfl)
  case last =>
    obtain rfl := Host.Outcome.next.inj (((execute_of_other_last ok err w s).symm.trans hu).symm.trans h)
    exact ⟨rfl, rfl⟩
  case runValid =>
    cases stepEffect_of_step hstep with
    | wait | read | writePayload | writePosvec => exact absurd (hs.symm.trans ht) nofun
    | reset => cases ht
    | command rest w _ hp _ he =>
      obtain ⟨rfl, hok⟩ := completedRun_of_runValid_set he hs ht
      exact ⟨by rw [hp]; rfl, hok⟩

/-! ## The order of the faults (R207) -/

/-- A RUN that finds an illegal position reports the lowest one. -/
theorem exec_run_of_not_positionsLegal {s : State} {x : Payload} {q : PosVec} (hx : payloadOperand s = some x)
    (hq : posvecOperand s = some q) (hillegal : ¬ PositionsLegal q) :
    ∃ i : BlockIndex, exec .run s = .next (runFaulted 3#4 (BitVec.ofNat 4 i.val) s) ∧
      legalPos (posField q i) = false ∧ ∀ j : BlockIndex, j < i → legalPos (posField q j) = true := by
  obtain ⟨i, hi⟩ := Option.ne_none_iff_exists'.mp (mt firstIllegalPos_eq_none.mp hillegal)
  exact ⟨i, exec_run_of_illegal_position hx hq hi, firstIllegalPos_eq_some.mp hi⟩

/-- Settles O54: each clause is the one outcome of its word, from O5 and from what SPLIT, RUN, INJECT and PROCESS do. -/
theorem faultPriority : Obligations.FaultPriority := by
  refine ⟨fun w s t hw h => ?illegal, fun s t hv h => ?runInput, fun idx s t hv h => ?splitInput,
    fun s t x hv hx hp h => ?positions, fun s t x q hv hx hp hq hillegal h => ?runPosition,
    fun b p s t hp h => ?blockPosition⟩
  case illegal =>
    rw [execute_of_illegalWord hw] at h
    cases h
    rfl
  case runInput =>
    rw [execute_runWord, exec_run_of_no_payload (payloadOperand_eq_none.mpr (.inl hv))] at h
    cases h
    rfl
  case splitInput =>
    have hword := execute_of_decode (decodeOfEncodeIsTheCommand (.split idx)) s
    have hsplit := exec_split_of_none idx (payloadOperand_eq_none.mpr (.inl hv))
    obtain rfl := Host.Outcome.next.inj ((hword.trans hsplit).symm.trans h)
    rfl
  case positions =>
    have hpayload := payloadOperand_eq_some.mpr ⟨hv, hx⟩
    rw [execute_runWord, exec_run_of_no_positions hpayload (posvecOperand_eq_none.mpr (.inl hp))] at h
    cases h
    rfl
  case runPosition =>
    obtain ⟨i, hrun, hi, hlow⟩ := exec_run_of_not_positionsLegal (payloadOperand_eq_some.mpr ⟨hv, hx⟩)
      (posvecOperand_eq_some.mpr ⟨hp, hq⟩) hillegal
    rw [execute_runWord, hrun] at h
    cases h
    have hblk : (runFaulted 3#4 (BitVec.ofNat 4 i.val) s).errBlock.toNat = i.val := Nat.mod_eq_of_lt i.isLt
    rw [hblk]
    exact ⟨rfl, (legalPos_eq_false _).mp hi, fun j hj => (legalPos_iff _).mp (hlow ⟨j, hj.trans i.isLt⟩ hj)⟩
  case blockPosition =>
    have hlegal := (legalPos_eq_false p).mpr hp
    rw [execute_inject_word, execute_process_word, exec_inject_of_illegal hlegal, exec_process_of_illegal hlegal,
      or_self] at h
    cases h
    exact ⟨rfl, rfl⟩

/-! ## The waiting core (R222, 70_reset_and_hazards.md R232) -/

/-- Settles O19: with nothing pending the step is the wait. -/
theorem idleCoreKeepsItsState : Obligations.IdleCoreKeepsItsState := fun _ => step_nil

end Sys2Proof.Proofs

/-!
Proofs of the statements about reset and hazards (70_reset_and_hazards.md): O58, O60, O17, O20, O43. A whole run is two host
writes, which leave a state that holds both operands, and then the RUN over them; that no other command reads the positions
is said once, as a change of them that commutes with exec.
-/

namespace Sys2Proof.Proofs

open Sys2Proof.Machine Sys2Proof.Safety Sys2Proof.Claim

/-! ## A whole run (R234, R235) -/

/-- `s` after the host's writes of both inputs, with `rest` still to come. -/
def inputsWritten (x : Payload) (q : PosVec) (rest : List HostAction) (s : State) : State :=
  hostWritePosvec q (hostWritePayload x (taken s rest))

/-- The first two steps of a run of the source. -/
theorem run_input_writes {s : State} {x : Payload} {q : PosVec} {rest : List HostAction} (hb : s.busy = false)
    (hp : s.pending = .write .payload 128 x :: .write .posvec 64 q :: rest) (k : Nat) :
    Host.Core.run core (k + 2) s = Host.Core.run core k (inputsWritten x q rest s) := by
  have hpayload : step s = .next (hostWritePayload x (taken s (.write .posvec 64 q :: rest))) :=
    (step_cons hp).trans (act_write_payload x hb)
  have hposvec : step (hostWritePayload x (taken s (.write .posvec 64 q :: rest))) = .next (inputsWritten x q rest s) :=
    (step_cons rfl).trans (act_write_posvec q hb)
  exact (core_run_succ hpayload (k + 1)).trans (core_run_succ hposvec k)

/-- A RUN that the host issues over legal inputs stores their results and completes. -/
theorem step_run_of_legal {s : State} {x : Payload} {q : PosVec} {rest : List HostAction}
    (hp : s.pending = .write .cmd 16 runWord :: rest) (hb : s.busy = false) (hx : payloadOperand s = some x)
    (hv : posvecOperand s = some q) (hq : PositionsLegal q) :
    step s = .next (complete (storeRun x q (newEra (taken s rest)))) := by
  calc step s = execute runWord (newEra (taken s rest)) := (step_cons hp).trans (act_write_cmd runWord hb)
    _ = exec .run (newEra (taken s rest)) := execute_runWord _
    _ = .next (complete (storeRun x q (newEra (taken s rest)))) := exec_run_of_legal hx hv hq

/-- Completion writes STATUS alone (60_exceptions.md R201). -/
theorem banksHold_complete {x : Payload} {q : PosVec} {s : State} (h : BanksHold x q s) : BanksHold x q (complete s) := h

/-- Settles O58: the two writes leave both operands for the RUN, which stores their results over whatever the banks held
and writes neither RESULT nor FIRST_ERR. -/
theorem wholeRunFromAnyIdleState : Obligations.WholeRunFromAnyIdleState := by
  intro s x q rest hb hq hp
  have hrun := step_run_of_legal (s := inputsWritten x q (.write .cmd 16 runWord :: rest) s) rfl hb rfl rfl hq
  exact ⟨_, (run_input_writes hb hp 1).trans (core_run_succ hrun 0), rfl, rfl,
    banksHold_complete (banksHold_storeRun x q _), rfl, rfl, rfl⟩

/-! ## Only RUN reads the positions (R233) -/

/-- `s` with another POSVEC and POSVEC_V. -/
def withPositions (q : Option PosVec) (valid : Bool) (s : State) : State := { s with posvec := q, posvecV := valid }

/-- A command other than RUN neither reads nor writes POSVEC and POSVEC_V; SPLIT reads PAYLOAD, which is left alone. -/
theorem exec_withPositions (q : Option PosVec) (valid : Bool) {i : Instr} (hi : i ≠ .run) (s : State) :
    exec i (withPositions q valid s) = mapNext (withPositions q valid) (exec i s) := by
  cases i with
  | nop | parity | syndrome | locate | correct | clrerr => rfl
  | inject b p =>
    cases hp : legalPos p with
    | true => rw [exec_inject_of_legal hp, exec_inject_of_legal hp]; rfl
    | false => rw [exec_inject_of_illegal hp, exec_inject_of_illegal hp]; rfl
  | process b p =>
    cases hp : legalPos p with
    | true => rw [exec_process_of_legal hp, exec_process_of_legal hp]; rfl
    | false => rw [exec_process_of_illegal hp, exec_process_of_illegal hp]; rfl
  | split idx =>
    have hop : payloadOperand (withPositions q valid s) = payloadOperand s := rfl
    cases hx : payloadOperand s with
    | some x => rw [exec_split_of_some idx hx, exec_split_of_some idx (hop.trans hx)]; rfl
    | none => rw [exec_split_of_none idx hx, exec_split_of_none idx (hop.trans hx)]; rfl
  | run => exact absurd rfl hi

/-- Settles O60: the change of the positions commutes with the command, and maps its next state. -/
theorem onlyRunReadsThePositions : Obligations.OnlyRunReadsThePositions := by
  intro i q valid s t hi h
  calc exec i (withPositions q valid s) = mapNext (withPositions q valid) (exec i s) := exec_withPositions q valid hi s
    _ = .next (withPositions q valid t) := by rw [h]; rfl

/-! ## BUSY (R240) -/

/-- Settles O17: the step is the action, and a listed action that is neither exception has no move while BUSY = 1. -/
theorem noMoveWhileBusy : Obligations.NoMoveWhileBusy :=
  fun _ _ _ hp hb ha hreset hstatus => (step_cons hp).trans (act_of_listed_of_busy ha hb hreset hstatus)

/-! ## Reset (R230) -/

theorem banksEmpty_reset : BanksEmpty State.reset := by
  refine ⟨fun i => ?_, rfl, rfl, rfl⟩
  simp [State.reset]

/-- Settles O20: the fields of State.reset are those of R230, and the reset action replaces every field of the core. -/
theorem resetLeavesTheResetState : Obligations.ResetLeavesTheResetState :=
  ⟨⟨rfl, rfl, rfl, rfl, rfl, rfl, rfl, rfl, rfl, rfl, rfl, rfl, banksEmpty_reset⟩,
    fun s rest hp => ⟨hostReset (taken s rest), (step_cons hp).trans (act_reset _), rfl, rfl⟩⟩

/-- Settles O43: the invariant speaks of the core's fields only, and there a reset action leaves State.reset. -/
theorem invariantHoldsAtReset : Obligations.InvariantHoldsAtReset := coreInvariant_hostReset State.reset

end Sys2Proof.Proofs
